-- ==== Sys2Proof/Word.lean ====
section
/-! DEFINITION. The value domain of the core: Bits, words, port values, buses and LatchStates
(00_scope.md R8 to R11, 10_state.md R16). Types only: every function on them that a test could show
wrong is in Decode.lean or under Machine/. -/
namespace Sys2Proof

/-- A Bit, a value in 0 and 1 (R8): `true` is 1, `false` is 0. -/
abbrev Bit := Bool

/-- The 16-bit data bus `Bit16` once its width and its values are checked (R6, R9).
Bus index j is numeric bit 15 - j (R10), which is what `BitVec.getMsbD` reads. -/
abbrev Word := BitVec 16

/-- What a caller puts on ONE port, before anything is checked. Only 0 and 1 are Bits (R8); the core
refuses every other value (R59), so other values must be expressible. -/
abbrev Port := Nat

/-- An untyped bus as a caller passes it: a sequence of port values, index 0 (the most significant)
first (R9). Its width is the list's length, so a bus of a wrong width (R58) is expressible. -/
abbrev Bus := List Port

/-- A LatchState: the pair of a latch's two outputs (R16). All four pairs are representable; nq is
never derived from q. -/
structure LatchState where
  q : Bit
  nq : Bit
  deriving DecidableEq, Repr, Inhabited

end Sys2Proof
end

