-- ==== Sys2Proof/Config.lean ====
section
/-! DEFINITION. What is fixed for one machine: the two parameters the spec leaves OPEN, `INIT_POLICY`
(10_state.md R31, decision D2) and `TOP_BANK` (00_scope.md R7, decision D6), with the defaults the spec
chooses, and the free draw that `INIT_POLICY = UNSPECIFIED` speaks of. -/
namespace Sys2Proof

/-- `INIT_POLICY` (R6, R31): how construction fills a LatchState. -/
inductive InitPolicy where
  /-- every LatchState is (0, 1) -/
  | zero
  /-- every LatchState is a free draw, made once per latch at construction -/
  | unspecified
  deriving DecidableEq, Repr

/-- `TOP_BANK` (R7): which unit stands above RAM4K. -/
inductive TopBank where
  /-- 16384 words, 4 RAM4K children (R88): the default -/
  | ram16k4way
  /-- 32768 words, 8 RAM4K children (R89) -/
  | ram32k8way
  /-- RAM4K is the largest unit -/
  | none
  deriving DecidableEq, Repr

/-- The default `INIT_POLICY` (R6, decision D2). -/
def Config.initPolicy : InitPolicy := .zero

/-- The default `TOP_BANK` (R6, decision D6). -/
def Config.topBank : TopBank := .ram16k4way

/-- FREE VALUE (log entry 3). The draw that `INIT_POLICY = UNSPECIFIED` makes for the latch with this
number (R31): any of the four pairs, fixed once. It has no body, so no proof can know it. -/
opaque Config.freeDraw : Nat → LatchState

end Sys2Proof
end

