-- ==== Sys2Proof/Syntax.lean ====
section
/-! DEFINITION. The units and ports of the core by name (decision D7), the 27 operations of the
operation map (30_encoding.md R56) as the inductive `Instr`, and the two forms in which a driver asks
for one tick: HJS's contract call (R52, R61) and the port vector (R51). -/
namespace Sys2Proof

/-- The addressable memory banks (R20, R88, R89). -/
inductive BankName where
  | ram8 | ram64 | ram512 | ram4k | ram16k | ram32k
  deriving DecidableEq, Repr

/-- The units that have a contract (R52). -/
inductive UnitName where
  | latch | gff | bit | reg16
  | bank (b : BankName)
  | mux2 | demux8 | mux8x16 | demux4 | mux4x16
  deriving DecidableEq, Repr

/-- The ports of the contracts (R52), as a stop reports them (R107 "the unit, the port, the width
found"). -/
inductive PortName where
  | set | reset | data | enable | input | load | address
  | a | b | select | selector
  /-- the sequence of options of MUX8X16 or MUX4X16, as a whole -/
  | options
  /-- option i of MUX8X16 or MUX4X16 -/
  | option (i : Nat)
  /-- a whole port vector (R51) -/
  | vector
  deriving DecidableEq, Repr

/-- The operations, one constructor per row of the opcode table (R56). An operand is a port as the
driver gives it; the control ports (set and reset, enable, load) are what selects the constructor, and
`previous` is state, not a port (R51). -/
inductive Instr where
  | latchHold
  | latchReset
  | latchSet
  | latchBoth
  | gffHold (data : Port)
  | gffCommit (data : Port)
  | bitHold (input : Port)
  | bitLoad (input : Port)
  | reg16Hold (input : Bus)
  | reg16Load (input : Bus)
  | ram8Read (input address : Bus)
  | ram8Write (input address : Bus)
  | ram64Read (input address : Bus)
  | ram64Write (input address : Bus)
  | ram512Read (input address : Bus)
  | ram512Write (input address : Bus)
  | ram4kRead (input address : Bus)
  | ram4kWrite (input address : Bus)
  | ram16kRead (input address : Bus)
  | ram16kWrite (input address : Bus)
  | ram32kRead (input address : Bus)
  | ram32kWrite (input address : Bus)
  | mux2 (a b select : Port)
  | demux8 (input : Port) (selector : Bus)
  | mux8x16 (options : List Bus) (selector : Bus)
  | demux4 (input : Port) (selector : Bus)
  | mux4x16 (options : List Bus) (selector : Bus)
  deriving DecidableEq, Repr

/-- One call of a contract, its ports as the caller passes them (R52, R61). `previous` is the
LatchState the caller passes to LATCH or GFF: `some p` passes p, `none` threads on the LatchState the
caller already holds for that unit (R12, R17: "caller owns and threads the state"). -/
inductive Call where
  | latch (set reset : Port) (previous : Option LatchState)
  | gatedFlipFlop (data enable : Port) (previous : Option LatchState)
  | bit (input load : Port)
  | reg16 (input : Bus) (load : Port)
  | bank (b : BankName) (input address : Bus) (load : Port)
  | mux2 (a b select : Port)
  | demux8 (input : Port) (selector : Bus)
  | mux8x16 (options : List Bus) (selector : Bus)
  | demux4 (input : Port) (selector : Bus)
  | mux4x16 (options : List Bus) (selector : Bus)
  deriving DecidableEq, Repr

/-- One tick the driver asks for: a contract call, or the unit it drives with that unit's port vector
(R51, R52 "a decoder learns the width from the unit it drives"). -/
inductive Request where
  | call (c : Call)
  | vector (u : UnitName) (ports : Bus)
  deriving DecidableEq, Repr

end Sys2Proof
end

