-- ==== Sys2Proof/WellFormed.lean ====
section
/-! DEFINITION. When an operation's operands are what its contract takes: Bits only (00_scope.md R8,
30_encoding.md R59), and buses of exactly the contract's widths (30_encoding.md R52, R58). -/
namespace Sys2Proof

/-- The width of a bank's address bus (R6, R32). -/
abbrev BankName.addressWidth : BankName → Nat
  | .ram8 => 3
  | .ram64 => 6
  | .ram512 => 9
  | .ram4k => 12
  | .ram16k => 14
  | .ram32k => 15

/-- A port value that is a Bit (R8). -/
def Port.isBit (x : Port) : Bool := x < 2

/-- A bus all of whose values are Bits (R8). -/
def Bus.allBits (b : Bus) : Bool := b.all Port.isBit

/-- The ports of an operation as buses, a one-bit port as a bus of width 1. -/
def Instr.ports : Instr → List Bus
  | .latchHold => []
  | .latchReset => []
  | .latchSet => []
  | .latchBoth => []
  | .gffHold d => [[d]]
  | .gffCommit d => [[d]]
  | .bitHold i => [[i]]
  | .bitLoad i => [[i]]
  | .reg16Hold i => [i]
  | .reg16Load i => [i]
  | .ram8Read i a => [i, a]
  | .ram8Write i a => [i, a]
  | .ram64Read i a => [i, a]
  | .ram64Write i a => [i, a]
  | .ram512Read i a => [i, a]
  | .ram512Write i a => [i, a]
  | .ram4kRead i a => [i, a]
  | .ram4kWrite i a => [i, a]
  | .ram16kRead i a => [i, a]
  | .ram16kWrite i a => [i, a]
  | .ram32kRead i a => [i, a]
  | .ram32kWrite i a => [i, a]
  | .mux2 a b s => [[a], [b], [s]]
  | .demux8 x t => [[x], t]
  | .mux8x16 o t => o ++ [t]
  | .demux4 x t => [[x], t]
  | .mux4x16 o t => o ++ [t]

/-- Every value on every port is a Bit (R8): what R59 asks of a call. -/
def Instr.bitsOnly (i : Instr) : Bool := i.ports.all Bus.allBits

/-- A bank operation's data bus and address bus have the bank's widths (R58). -/
def BankName.widthsOk (b : BankName) (input address : Bus) : Bool :=
  input.length == 16 && address.length == b.addressWidth

/-- A word multiplexer's options and selector have the contract's widths (R52). -/
def muxWidthsOk (n w : Nat) (options : List Bus) (selector : Bus) : Bool :=
  options.length == n && options.all (·.length == 16) && selector.length == w

/-- Every bus of an operation has the width its contract gives it (R52). -/
def Instr.widthsOk : Instr → Bool
  | .latchHold => true
  | .latchReset => true
  | .latchSet => true
  | .latchBoth => true
  | .gffHold _ => true
  | .gffCommit _ => true
  | .bitHold _ => true
  | .bitLoad _ => true
  | .reg16Hold i => i.length == 16
  | .reg16Load i => i.length == 16
  | .ram8Read i a => BankName.ram8.widthsOk i a
  | .ram8Write i a => BankName.ram8.widthsOk i a
  | .ram64Read i a => BankName.ram64.widthsOk i a
  | .ram64Write i a => BankName.ram64.widthsOk i a
  | .ram512Read i a => BankName.ram512.widthsOk i a
  | .ram512Write i a => BankName.ram512.widthsOk i a
  | .ram4kRead i a => BankName.ram4k.widthsOk i a
  | .ram4kWrite i a => BankName.ram4k.widthsOk i a
  | .ram16kRead i a => BankName.ram16k.widthsOk i a
  | .ram16kWrite i a => BankName.ram16k.widthsOk i a
  | .ram32kRead i a => BankName.ram32k.widthsOk i a
  | .ram32kWrite i a => BankName.ram32k.widthsOk i a
  | .mux2 _ _ _ => true
  | .demux8 _ t => t.length == 3
  | .mux8x16 o t => muxWidthsOk 8 3 o t
  | .demux4 _ t => t.length == 2
  | .mux4x16 o t => muxWidthsOk 4 2 o t

/-- An operation the core gives a meaning to: Bits on every port, every bus of its width. -/
def Instr.wellFormed (i : Instr) : Bool := i.bitsOnly && i.widthsOk

end Sys2Proof
end

