-- ==== Sys2Proof/Decode.lean ====
section
/-! DEFINITION. From a driver's request to the operation it selects, and back (30_encoding.md R51 to
R56). A port vector is cut into its ports at the positions of the unit's format (R52); the control ports
then select the operation (R56). Every vector of a format's width decodes (R57); a control value that is
no Bit (R59) and a vector of another width (R60) are rejected by name. -/
namespace Sys2Proof

/-- Why a request selects no operation. -/
inductive DecodeError where
  /-- a control port, or a vector of a wrong width, carries a value outside 0 and 1 (R59) -/
  | nonBit (u : UnitName) (p : PortName) (value : Nat)
  /-- a port vector has not the one width of its unit's format (R52, R60) -/
  | width (u : UnitName) (p : PortName) (found : Nat)
  deriving DecidableEq, Repr

/-- The w bits of a number as a bus, most significant first (R9, R10). -/
def Bus.ofNat : Nat → Nat → Bus
  | 0, _ => []
  | w + 1, n => n / 2 ^ w % 2 :: Bus.ofNat w n

/-- A checked value as the bus that carries it (R10). -/
def Bus.ofBitVec {w : Nat} (v : BitVec w) : Bus := Bus.ofNat w v.toNat

/-- Checked words as the option buses that carry them (R103, R105). -/
def Bus.ofWords {n : Nat} (o : Vector Word n) : List Bus := o.toList.map Bus.ofBitVec

/-- A Bit as the port value that carries it. -/
def Port.ofBit (b : Bit) : Port := b.toNat

/-- The width of a unit's port vector (R52). -/
def UnitName.formatWidth : UnitName → Nat
  | .latch => 2
  | .gff => 2
  | .bit => 2
  | .reg16 => 17
  | .bank b => 17 + b.addressWidth
  | .mux2 => 3
  | .demux8 => 4
  | .mux8x16 => 131
  | .demux4 => 3
  | .mux4x16 => 66

/-- The n options that stand first in a word multiplexer's vector, 16 positions each: option i at
positions 16i to 16i+15 (R52, R103). -/
def optionBuses : Nat → Bus → List Bus
  | 0, _ => []
  | n + 1, ports => ports.take 16 :: optionBuses n (ports.drop 16)

/-- Why a port vector whose width is not its unit's selects no operation. MODEL'S CHOICE (log entry 8):
the spec does not order R59 against R58 and R60. Of a vector that also carries a value outside 0 and 1 the
value is reported, as everywhere in this model. That a vector of Bits of a wrong width is a width error is
read from R125 (log entry 7). -/
def malformedVector (u : UnitName) (ports : Bus) : DecodeError :=
  match ports.find? (fun x => !Port.isBit x) with
  | some x => .nonBit u .vector x
  | none => .width u .vector ports.length

/-- Cuts a port vector into the ports of its unit's contract, at the positions of the unit's format
(R52). A unit has exactly one width (R60); a vector of another width is malformed. -/
def decodeVector (u : UnitName) (ports : Bus) : Except DecodeError Call :=
  match u, ports with
  | .latch, [s, r] => .ok (.latch s r none)
  | .gff, [d, e] => .ok (.gatedFlipFlop d e none)
  | .bit, [i, l] => .ok (.bit i l)
  | .reg16, ports =>
    match ports.drop 16 with
    | [l] => .ok (.reg16 (ports.take 16) l)
    | _ => .error (malformedVector u ports)
  | .bank b, ports =>
    match ports.drop (16 + b.addressWidth) with
    | [l] => .ok (.bank b (ports.take 16) ((ports.drop 16).take b.addressWidth) l)
    | _ => .error (malformedVector u ports)
  | .mux2, [a, b, s] => .ok (.mux2 a b s)
  | .demux8, [x, t0, t1, t2] => .ok (.demux8 x [t0, t1, t2])
  | .demux4, [x, t0, t1] => .ok (.demux4 x [t0, t1])
  | .mux8x16, ports =>
    if ports.length = 131 then .ok (.mux8x16 (optionBuses 8 ports) (ports.drop 128))
    else .error (malformedVector u ports)
  | .mux4x16, ports =>
    if ports.length = 66 then .ok (.mux4x16 (optionBuses 4 ports) (ports.drop 64))
    else .error (malformedVector u ports)
  | u, ports => .error (malformedVector u ports)

/-- Reads a control port as the Bit that selects an operation; another value is refused, not coerced
(R59). -/
def controlBit (u : UnitName) (p : PortName) (x : Port) : Except DecodeError Bit :=
  match x with
  | 0 => .ok false
  | 1 => .ok true
  | n => .error (.nonBit u p n)

/-- The READ or WRITE operation of a bank, selected by its load port (R56). -/
def bankOperation (b : BankName) (input address : Bus) (load : Bit) : Instr :=
  match b, load with
  | .ram8, false => .ram8Read input address
  | .ram8, true => .ram8Write input address
  | .ram64, false => .ram64Read input address
  | .ram64, true => .ram64Write input address
  | .ram512, false => .ram512Read input address
  | .ram512, true => .ram512Write input address
  | .ram4k, false => .ram4kRead input address
  | .ram4k, true => .ram4kWrite input address
  | .ram16k, false => .ram16kRead input address
  | .ram16k, true => .ram16kWrite input address
  | .ram32k, false => .ram32kRead input address
  | .ram32k, true => .ram32kWrite input address

/-- The LATCH operation that set and reset select (R56). -/
def latchOperation (set reset : Bit) : Instr :=
  match set, reset with
  | false, false => .latchHold
  | false, true => .latchReset
  | true, false => .latchSet
  | true, true => .latchBoth

/-- The operation a contract call selects by its control ports: the operation map (R56). A control value
that is no Bit selects none, whatever the other ports carry: where another port is at fault too, that the
control port is the one reported is MODEL'S CHOICE (log entry 8). -/
def decodeCall : Call → Except DecodeError Instr
  | .latch s r _ => do
    let s ← controlBit .latch .set s
    let r ← controlBit .latch .reset r
    pure (latchOperation s r)
  | .gatedFlipFlop d e _ => do
    let e ← controlBit .gff .enable e
    pure (if e then .gffCommit d else .gffHold d)
  | .bit i l => do
    let l ← controlBit .bit .load l
    pure (if l then .bitLoad i else .bitHold i)
  | .reg16 i l => do
    let l ← controlBit .reg16 .load l
    pure (if l then .reg16Load i else .reg16Hold i)
  | .bank b i a l => do
    let l ← controlBit (.bank b) .load l
    pure (bankOperation b i a l)
  | .mux2 a b s => .ok (.mux2 a b s)
  | .demux8 x t => .ok (.demux8 x t)
  | .mux8x16 o t => .ok (.mux8x16 o t)
  | .demux4 x t => .ok (.demux4 x t)
  | .mux4x16 o t => .ok (.mux4x16 o t)

/-- The operation that a unit's port vector selects. -/
def decode (u : UnitName) (ports : Bus) : Except DecodeError Instr :=
  match decodeVector u ports with
  | .ok c => decodeCall c
  | .error e => .error e

/-- The operation a request selects. -/
def decodeRequest : Request → Except DecodeError Instr
  | .call c => decodeCall c
  | .vector u ports => decode u ports

/-- The unit an operation drives (R56: the row's format belongs to one unit, R52). -/
def Instr.unit : Instr → UnitName
  | .latchHold => .latch
  | .latchReset => .latch
  | .latchSet => .latch
  | .latchBoth => .latch
  | .gffHold _ => .gff
  | .gffCommit _ => .gff
  | .bitHold _ => .bit
  | .bitLoad _ => .bit
  | .reg16Hold _ => .reg16
  | .reg16Load _ => .reg16
  | .ram8Read _ _ => .bank .ram8
  | .ram8Write _ _ => .bank .ram8
  | .ram64Read _ _ => .bank .ram64
  | .ram64Write _ _ => .bank .ram64
  | .ram512Read _ _ => .bank .ram512
  | .ram512Write _ _ => .bank .ram512
  | .ram4kRead _ _ => .bank .ram4k
  | .ram4kWrite _ _ => .bank .ram4k
  | .ram16kRead _ _ => .bank .ram16k
  | .ram16kWrite _ _ => .bank .ram16k
  | .ram32kRead _ _ => .bank .ram32k
  | .ram32kWrite _ _ => .bank .ram32k
  | .mux2 _ _ _ => .mux2
  | .demux8 _ _ => .demux8
  | .mux8x16 _ _ => .mux8x16
  | .demux4 _ _ => .demux4
  | .mux4x16 _ _ => .mux4x16

/-- The port vector of an operation: the ports in contract order, each bus index 0 first (R51), with
the control bits of the operation's row (R56). -/
def encode : Instr → Bus
  | .latchHold => [0, 0]
  | .latchReset => [0, 1]
  | .latchSet => [1, 0]
  | .latchBoth => [1, 1]
  | .gffHold d => [d, 0]
  | .gffCommit d => [d, 1]
  | .bitHold i => [i, 0]
  | .bitLoad i => [i, 1]
  | .reg16Hold i => i ++ [0]
  | .reg16Load i => i ++ [1]
  | .ram8Read i a => i ++ a ++ [0]
  | .ram8Write i a => i ++ a ++ [1]
  | .ram64Read i a => i ++ a ++ [0]
  | .ram64Write i a => i ++ a ++ [1]
  | .ram512Read i a => i ++ a ++ [0]
  | .ram512Write i a => i ++ a ++ [1]
  | .ram4kRead i a => i ++ a ++ [0]
  | .ram4kWrite i a => i ++ a ++ [1]
  | .ram16kRead i a => i ++ a ++ [0]
  | .ram16kWrite i a => i ++ a ++ [1]
  | .ram32kRead i a => i ++ a ++ [0]
  | .ram32kWrite i a => i ++ a ++ [1]
  | .mux2 a b s => [a, b, s]
  | .demux8 x t => x :: t
  | .mux8x16 o t => o.flatten ++ t
  | .demux4 x t => x :: t
  | .mux4x16 o t => o.flatten ++ t

/-- DESIGN CHOICE (log entry 9). A port vector does not name its unit (R52: the driver knows which
unit it drives), and several units' vectors have the same width in whole bytes. For a bare word of nbits
bits this names the unit whose vector it is read as: of the units whose format, in whole bytes, has nbits
bits, the first in the opcode table's order. -/
def tableUnit (nbits : Nat) : UnitName :=
  if nbits ≤ 8 then .latch
  else if nbits ≤ 24 then .reg16
  else if nbits ≤ 32 then .bank .ram512
  else if nbits ≤ 72 then .mux4x16
  else .mux8x16

/-- The bits of a bare word as `tableUnit`'s port vector. A word with a bit above the format's width
keeps all of its bits, and is then of no format (R60). -/
def tableVector (nbits w : Nat) : Bus :=
  let width := (tableUnit nbits).formatWidth
  if w < 2 ^ width then Bus.ofNat width w else Bus.ofNat (max nbits (width + 1)) w

/-- The operation this decoder reads from a bare word, numbered as the opcode table numbers its bits:
position 0 of the vector is the word's most significant bit (R51). -/
def decodeTableWord (nbits w : Nat) : Option Instr :=
  match decode (tableUnit nbits) (tableVector nbits w) with
  | .ok i => some i
  | .error _ => none

end Sys2Proof
end

