-- ==== Sys2Proof/Machine/State.lean ====
section
/-! DEFINITION. The machine's state: every LatchState of every unit (10_state.md R15 to R22), kept as
the tree the spec gives each unit, with what the driver holds (R14); the reasons a step can stop; and
construction, the core's only reset (R23, R31, R121, R122). -/
namespace Sys2Proof.Machine

/-- A one-bit register: one LatchState (R18). -/
structure BitReg where
  cell : LatchState
  deriving DecidableEq, Repr

/-- A 16-bit register: one BIT per bus index 0 to 15 (R19). -/
structure Reg16 where
  bit : Vector BitReg 16
  deriving DecidableEq, Repr

/-- A memory bank at level k: exactly 8 children of level k - 1 (R20). Level 0 is the 16-bit register,
the "1 word" of the chain (R82). RAM8, RAM64, RAM512 and RAM4K are levels 1 to 4, RAM32K level 5
(R89). -/
abbrev Bank : Nat → Type
  | 0 => Reg16
  | k + 1 => Vector (Bank k) 8

/-- The 16384-word bank: exactly 4 RAM4K children (R20, R88). -/
structure Ram16k where
  child : Vector (Bank 4) 4
  deriving DecidableEq, Repr

/-- The unit above RAM4K, as `TOP_BANK` has it (R7). -/
inductive TopUnit where
  | ram16k (r : Ram16k)
  | ram32k (r : Bank 5)
  | none
  deriving DecidableEq, Repr

/-- The value a contract returns (R52). -/
inductive Output where
  /-- LATCH and GFF return the next LatchState -/
  | latchState (l : LatchState)
  /-- BIT and MUX2 return a Bit -/
  | bit (b : Bit)
  /-- REG16, the banks, MUX8X16 and MUX4X16 return a Bit16 -/
  | word (v : Word)
  /-- DEMUX8 returns a Bit[8], index 0 first -/
  | lines8 (l : Vector Bit 8)
  /-- DEMUX4 returns a Bit[4], index 0 first -/
  | lines4 (l : Vector Bit 4)
  deriving DecidableEq, Repr

/-- The state. `latch` to `top` are the core's own: all LatchStates of one instance of every unit
(R15). `gff` is the LatchState that the caller of the free-standing flip-flop keeps for it, since GFF
owns none (R17). `output` and `requests` belong to the driver (R14, R125): the value the last tick
returned to it, and the ticks it has yet to make, first one first (log entries 5 and 6). -/
structure State where
  latch : LatchState
  gff : LatchState
  bit : BitReg
  reg16 : Reg16
  ram8 : Bank 1
  ram64 : Bank 2
  ram512 : Bank 3
  ram4k : Bank 4
  top : TopUnit
  output : Option Output
  requests : List Request
  deriving DecidableEq, Repr

/-- The Fatal outcomes (R107): each ends the run, with no next state. The constructors carry what R107
has recorded. -/
inductive Fault where
  /-- Code 1, `BUS_WIDTH`: a bus of another width than its contract's (R58, R125). Raised by
  `raiseFatal` from the port check of every operation that takes a bus, and for a port vector of a width
  its unit does not have. Safe: the spec gives no next state here. -/
  | busWidth (u : UnitName) (p : PortName) (found : Nat)
  /-- Code 2, `DECODE_INDEX`: an internal lookup of a decoded index or child output is absent (R87).
  Raised by nothing: this model's decode and select are total, and R87 says that it then cannot occur.
  Safe. -/
  | decodeIndex (u : UnitName) (index : Nat)
  deriving DecidableEq, Repr

/-- The code of a Fatal reason (R107, decision D20). -/
def Fault.code : Fault → Nat
  | .busWidth _ _ _ => 1
  | .decodeIndex _ _ => 2

/-- Why a call has no meaning. -/
inductive Refusal where
  /-- An operation that has no meaning in this model yet. Raised by no arm of `exec`. Safe. -/
  | notModelled (mnemonic : String)
  /-- A port value outside 0 and 1 (R59 "a model gives such a tick no meaning and no next state").
  Raised by the port check of every operation, and by the decoder for control ports and for a vector of a
  wrong width (log entry 8). Safe. -/
  | nonBit (u : UnitName) (p : PortName) (value : Nat)
  /-- A tick of RAM16K or RAM32K on a machine whose `TOP_BANK` has not built that unit (R7, R56,
  decision D23). Raised by the ticks of these two banks whose ports pass the port check (log entry 16).
  Safe. -/
  | unitNotBuilt (u : UnitName)
  deriving DecidableEq, Repr

/-- What a step or an operation ends in. -/
abbrev Result := Host.Outcome State Fault Refusal

/-- The construction value of the latch with this number (R31). -/
def initialCell (p : InitPolicy) (n : Nat) : LatchState :=
  match p with
  | .zero => { q := false, nq := true }
  | .unspecified => Config.freeDraw n

/-- A freshly constructed 16-bit register whose latches have the numbers from `base` on (R122). -/
def Reg16.construct (p : InitPolicy) (base : Nat) : Reg16 :=
  { bit := Vector.ofFn fun j => { cell := initialCell p (base + j.val) } }

/-- A freshly constructed bank, its whole tree at once (R122). A level-k bank has 16 * 8^k latches
(R21). -/
def Bank.construct (p : InitPolicy) : (k : Nat) → (base : Nat) → Bank k
  | 0, base => Reg16.construct p base
  | k + 1, base => Vector.ofFn fun i => Bank.construct p k (base + i.val * (16 * 8 ^ k))

/-- A freshly constructed top unit (R7, R122). -/
def TopUnit.construct (p : InitPolicy) (t : TopBank) (base : Nat) : TopUnit :=
  match t with
  | .ram16k4way =>
    .ram16k { child := Vector.ofFn fun i => Bank.construct p 4 (base + i.val * (16 * 8 ^ 4)) }
  | .ram32k8way => .ram32k (Bank.construct p 5 base)
  | .none => .none

/-- One instance of every unit, freshly constructed under the two parameters (R23, R31), and a driver
that has made no tick. The latches are numbered through the units in turn (R21), so that each has a draw
of its own under `UNSPECIFIED`. The spec gives no construction value for the LatchState that GFF's caller
keeps: it is constructed as every other one (log entry 2). -/
def State.construct (p : InitPolicy) (t : TopBank) : State where
  latch := initialCell p 0
  gff := initialCell p 1
  bit := { cell := initialCell p 2 }
  reg16 := Reg16.construct p 3
  ram8 := Bank.construct p 1 19
  ram64 := Bank.construct p 2 147
  ram512 := Bank.construct p 3 1171
  ram4k := Bank.construct p 4 9363
  top := TopUnit.construct p t 74899
  output := none
  requests := []

/-- The machine right after construction, its only reset (R121), under the default parameters (R6). -/
def State.reset : State := State.construct Config.initPolicy Config.topBank

end Sys2Proof.Machine
end

