-- ==== Sys2Proof/Machine/Ops.lean ====
section
/-! DEFINITION. The named operations over the state: the combinational contracts (43), the latch and
flip-flop (40), the ticks of the one-bit register, the 16-bit register (41) and the banks (42), the
flattened view of a bank's contents (20_memory.md R40), the one operation that raises a Fatal (60), and
the writes of a tick's result into the state. -/
namespace Sys2Proof.Machine

/-! The combinational contracts: pure, stateless, total (R100). -/

/-- MUX2 (R101). -/
def mux2 (a b select : Bit) : Bit := if select then b else a

/-- DEMUX8 (R102): `input` at the position the selector names, 0 at every other; the selector is read
most significant bit first (R54). -/
def demux8 (input : Bit) (selector : BitVec 3) : Vector Bit 8 :=
  Vector.ofFn fun i => if i.val = selector.toNat then input else false

/-- MUX8X16 (R103). -/
def mux8x16 (options : Vector Word 8) (selector : BitVec 3) : Word :=
  options[selector.toNat]'selector.isLt

/-- DEMUX4 (R104). -/
def demux4 (input : Bit) (selector : BitVec 2) : Vector Bit 4 :=
  Vector.ofFn fun i => if i.val = selector.toNat then input else false

/-- MUX4X16 (R105). -/
def mux4x16 (options : Vector Word 4) (selector : BitVec 2) : Word :=
  options[selector.toNat]'selector.isLt

/-! The storage primitives. -/

/-- The bistable latch: the truth table of R65, for every previous state. -/
def latch (set reset : Bit) (previous : LatchState) : LatchState :=
  match set, reset with
  | false, false => previous
  | false, true => { q := false, nq := true }
  | true, false => { q := true, nq := false }
  | true, true => { q := false, nq := false }

/-- The clock-gated flip-flop (R70): with enable 1 the latch driven by data and NOT data, with enable 0
the previous state. -/
def gatedFlipFlop (data enable : Bit) (previous : LatchState) : LatchState :=
  if enable then latch data (!data) previous else previous

/-- A BIT tick (R74): the input or the register's own output is selected, and the flip-flop always
commits (the hold is by feedback, R77, R129). Returns the q of the new state. -/
def bitTick (s : BitReg) (input load : Bit) : BitReg × Bit :=
  let selected := mux2 s.cell.q input load
  let s' : BitReg := { cell := gatedFlipFlop selected true s.cell }
  (s', s'.cell.q)

/-- A 16-bit register's current value: the q of each lane, index 0 most significant (R19). -/
def Reg16.value (r : Reg16) : Word := BitVec.ofFnBE fun j => r.bit[j].cell.q

/-- A REG16 tick (R78): sixteen BIT ticks, lane j with bit j of the input, all with the same load; the
output is the lanes' outputs in index order. -/
def reg16Tick (s : Reg16) (input : Word) (load : Bit) : Reg16 × Word :=
  let ticked (j : Fin 16) := bitTick s.bit[j] (input.getMsbD j.val) load
  ({ bit := Vector.ofFn fun j => (ticked j).1 }, BitVec.ofFnBE fun j => (ticked j).2)

/-- The selecting field `top3` of a level-(k+1) bank's address: its first three bits (R53). -/
def top3 (k : Nat) (address : BitVec (3 * (k + 1))) : BitVec 3 := address.extractLsb' (3 * k) 3

/-- The remainder `rest` of a level-(k+1) bank's address: the bits after `top3` (R53). -/
def rest (k : Nat) (address : BitVec (3 * (k + 1))) : BitVec (3 * k) := address.extractLsb' 0 (3 * k)

/-- A bank tick at level k (R82): decode, tick EVERY child with its own enable line (R84), select among
the children's outputs of this tick (R85, R126). At level 0 it is the 16-bit register's tick, whose
address is empty (conflict C8). -/
def bankTick : (k : Nat) → Bank k → Word → BitVec (3 * k) → Bit → Bank k × Word
  | 0, s, input, _, load => reg16Tick s input load
  | k + 1, s, input, address, load =>
    let enable := demux8 load (top3 k address)
    let ticked (i : Fin 8) := bankTick k s[i] input (rest k address) enable[i]
    (Vector.ofFn fun i => (ticked i).1,
      mux8x16 (Vector.ofFn fun i => (ticked i).2) (top3 k address))

/-- The selecting field `top2` of RAM16K's address: its first two bits (R53). -/
def top2 (address : BitVec 14) : BitVec 2 := address.extractLsb' 12 2

/-- The remainder of RAM16K's address: the twelve bits after `top2` (R53). -/
def rest12 (address : BitVec 14) : BitVec 12 := address.extractLsb' 0 12

/-- A RAM16K tick (R88): the same steps with four RAM4K children. -/
def ram16kTick (s : Ram16k) (input : Word) (address : BitVec 14) (load : Bit) : Ram16k × Word :=
  let enable := demux4 load (top2 address)
  let ticked (i : Fin 4) := bankTick 4 s.child[i] input (rest12 address) enable[i]
  ({ child := Vector.ofFn fun i => (ticked i).1 },
    mux4x16 (Vector.ofFn fun i => (ticked i).2) (top2 address))

/-! The flattened view (R40). -/

/-- `MemRead` on a level-k bank (R40): the word at address a, for a below 8^k; no word at any other. -/
def Bank.contents : (k : Nat) → Bank k → Nat → Option Word
  | 0, r, a => if a = 0 then some (Reg16.value r) else none
  | k + 1, s, a =>
    if h : a / 8 ^ k < 8 then Bank.contents k (s[a / 8 ^ k]'h) (a % 8 ^ k) else none

/-- `MemRead` on RAM16K (R40). -/
def Ram16k.contents (s : Ram16k) (a : Nat) : Option Word :=
  if h : a / 4096 < 4 then Bank.contents 4 (s.child[a / 4096]'h) (a % 4096) else none

/-- `MemRead` on a bank of the machine (R40); no word at an address outside the bank (R32) or in a top
unit that is not built (R7). -/
def State.memRead (s : State) (b : BankName) (a : Nat) : Option Word :=
  match b with
  | .ram8 => Bank.contents 1 s.ram8 a
  | .ram64 => Bank.contents 2 s.ram64 a
  | .ram512 => Bank.contents 3 s.ram512 a
  | .ram4k => Bank.contents 4 s.ram4k a
  | .ram16k => match s.top with
    | .ram16k r => r.contents a
    | _ => none
  | .ram32k => match s.top with
    | .ram32k r => Bank.contents 5 r a
    | _ => none

/-! Errors. -/

/-- `raise Fatal(reason)` (R107): the run ends, with no next state and no output. The one place a
tick's Fatal comes from. -/
def raiseFatal (f : Fault) : Result := .fault f

/-! A tick's result, written into the state: the unit's own state and the value returned to the driver.
No other unit's state is touched (R22). -/

def State.putLatch (s : State) (l : LatchState) : State :=
  { s with latch := l, output := some (.latchState l) }

def State.putGff (s : State) (l : LatchState) : State :=
  { s with gff := l, output := some (.latchState l) }

def State.putBit (s : State) (t : BitReg × Bit) : State :=
  { s with bit := t.1, output := some (.bit t.2) }

def State.putReg16 (s : State) (t : Reg16 × Word) : State :=
  { s with reg16 := t.1, output := some (.word t.2) }

def State.putRam8 (s : State) (t : Bank 1 × Word) : State :=
  { s with ram8 := t.1, output := some (.word t.2) }

def State.putRam64 (s : State) (t : Bank 2 × Word) : State :=
  { s with ram64 := t.1, output := some (.word t.2) }

def State.putRam512 (s : State) (t : Bank 3 × Word) : State :=
  { s with ram512 := t.1, output := some (.word t.2) }

def State.putRam4k (s : State) (t : Bank 4 × Word) : State :=
  { s with ram4k := t.1, output := some (.word t.2) }

def State.putTop (s : State) (t : TopUnit × Word) : State :=
  { s with top := t.1, output := some (.word t.2) }

/-- A combinational contract has no state: only its value goes back to the driver (R100). -/
def State.putOutput (s : State) (o : Output) : State := { s with output := some o }

/-! The driver's side. -/

/-- The LatchState a caller passes as `previous` becomes the one it holds for that unit (R12, R17);
`none` leaves the held one. -/
def State.deliver (s : State) (r : Request) : State :=
  match r with
  | .call (.latch _ _ (some p)) => { s with latch := p }
  | .call (.gatedFlipFlop _ _ (some p)) => { s with gff := p }
  | _ => s

/-- The stop of a request that selects no operation: a control value that is no Bit is refused (R59),
a vector of a wrong width is a Fatal (R58, R125). -/
def decodeStop (e : DecodeError) : Result :=
  match e with
  | .nonBit u p n => .refused (.nonBit u p n)
  | .width u p n => raiseFatal (.busWidth u p n)

/-- The next tick the driver asks for, and the state with that request taken off its list (R14, R46:
ticks take effect in the order the driver calls them). -/
def State.fetch (s : State) : Option (Request × State) :=
  match s.requests with
  | [] => none
  | r :: rest => some (r, { s with requests := rest })

end Sys2Proof.Machine
end

