-- ==== Sys2Proof/Machine/Operands.lean ====
section
/-! DEFINITION. Operand forms: how a tick's ports are checked (30_encoding.md R58, R59;
60_exceptions.md R107, R109) and read (00_scope.md R10). The core has no immediate, displacement or
extended operand: every port is passed through unchanged (R55). -/
namespace Sys2Proof.Machine

/-- `val(b)`: the unsigned value of a bus, index 0 most significant (R10). -/
def busVal : Bus → Nat
  | [] => 0
  | x :: xs => x * 2 ^ xs.length + busVal xs

/-- A checked bus as the value it carries. Only used where the port check has passed, so that nothing
is truncated, padded or coerced (R58, R59). -/
def busValue (w : Nat) (b : Bus) : BitVec w := BitVec.ofNat w (busVal b)

/-- A checked data bus as a word. -/
def busWord (b : Bus) : Word := busValue 16 b

/-- A checked one-bit port as a Bit. -/
def portBit (x : Port) : Bit := x == 1

/-- One port of a tick to be checked: the width its contract gives it, the width found, and the values
on it. -/
structure PortCheck where
  port : PortName
  want : Nat
  found : Nat
  values : List Port
  deriving DecidableEq, Repr

/-- A bus port of width w. -/
def busPort (p : PortName) (w : Nat) (b : Bus) : PortCheck := ⟨p, w, b.length, b⟩

/-- A one-bit port, which has no width to be wrong. -/
def bitPort (p : PortName) (x : Port) : PortCheck := ⟨p, 1, 1, [x]⟩

/-- The ports of a word multiplexer with n options and a selector of width w: the number of options,
each option, the selector (R52). -/
def muxPorts (n w : Nat) (options : List Bus) (selector : Bus) : List PortCheck :=
  ⟨.options, n, options.length, []⟩ ::
    (options.zipIdx.map fun o => busPort (.option o.2) 16 o.1) ++ [busPort .selector w selector]

/-- The ports of a bank tick, the data bus before the address bus (R109). -/
def bankPorts (b : BankName) (input address : Bus) : List PortCheck :=
  [busPort .input 16 input, busPort .address b.addressWidth address]

/-- The first value on the ports, in order, that is no Bit (R59). -/
def firstNonBit : List PortCheck → Option (PortName × Nat)
  | [] => none
  | c :: cs =>
    match c.values.find? (fun x => !Port.isBit x) with
    | some x => some (c.port, x)
    | none => firstNonBit cs

/-- The first port, in order, of a wrong width (R58, R109). -/
def firstWidth : List PortCheck → Option (PortName × Nat)
  | [] => none
  | c :: cs => if c.found = c.want then firstWidth cs else some (c.port, c.found)

/-- Runs a tick of unit u whose ports pass the checks. A port value that is no Bit is refused (R59); a
bus of a wrong width is a Fatal at the start of the tick, the ports in R109's order (R107). MODEL'S CHOICE:
that the Bits are checked before the widths, and which of several values that are no Bit is reported
(log entry 8). -/
def withPorts (u : UnitName) (ports : List PortCheck) (tick : Result) : Result :=
  match firstNonBit ports with
  | some (p, x) => .refused (.nonBit u p x)
  | none =>
    match firstWidth ports with
    | some (p, n) => raiseFatal (.busWidth u p n)
    | none => tick

/-- The options of a word multiplexer, checked, as a Bit16[n]. -/
def optionWords (n : Nat) (options : List Bus) : Vector Word n :=
  Vector.ofFn fun i => busWord (options.getD i.val [])

end Sys2Proof.Machine
end

