-- ==== Sys2Proof/Machine/Banks.lean ====
section
/-! DEFINITION. The meanings of the bank operations (42_memory_banks.md R90 to R99, and R89 for
RAM32K): a READ is the bank's tick with load 0, a WRITE with load 1 (R56). -/
namespace Sys2Proof.Machine

/-- A tick of a level-1 to level-4 bank or of the top bank on the machine, its ports already checked
(R82, R88, R89). RAM16K and RAM32K exist only on a machine whose `TOP_BANK` is theirs (R7, D23). -/
def tickBank (b : BankName) (input : Word) (address : BitVec b.addressWidth) (load : Bit)
    (s : State) : Result :=
  match b, address with
  | .ram8, a => .next (s.putRam8 (bankTick 1 s.ram8 input a load))
  | .ram64, a => .next (s.putRam64 (bankTick 2 s.ram64 input a load))
  | .ram512, a => .next (s.putRam512 (bankTick 3 s.ram512 input a load))
  | .ram4k, a => .next (s.putRam4k (bankTick 4 s.ram4k input a load))
  | .ram16k, a =>
    match s.top with
    | .ram16k r =>
      let t := ram16kTick r input a load
      .next (s.putTop (.ram16k t.1, t.2))
    | _ => .refused (.unitNotBuilt (.bank .ram16k))
  | .ram32k, a =>
    match s.top with
    | .ram32k r =>
      let t := bankTick 5 r input a load
      .next (s.putTop (.ram32k t.1, t.2))
    | _ => .refused (.unitNotBuilt (.bank .ram32k))

/-- A bank tick from its ports as the driver gives them (R58, R107, R109). MODEL'S CHOICE (log entry
16): the spec does not order R58 and R59 against the non-admission of a bank that `TOP_BANK` has not built
(R56, D23); here the ports are checked first, so only a tick whose ports pass is refused as
`unitNotBuilt`. -/
def tickBankPorts (b : BankName) (input address : Bus) (load : Bit) (s : State) : Result :=
  withPorts (.bank b) (bankPorts b input address)
    (tickBank b (busWord input) (busValue b.addressWidth address) load s)

/-- RAM8.READ (R90). -/
def execRam8Read (input address : Bus) (s : State) : Result :=
  tickBankPorts .ram8 input address false s

/-- RAM8.WRITE (R91). -/
def execRam8Write (input address : Bus) (s : State) : Result :=
  tickBankPorts .ram8 input address true s

/-- RAM64.READ (R92). -/
def execRam64Read (input address : Bus) (s : State) : Result :=
  tickBankPorts .ram64 input address false s

/-- RAM64.WRITE (R93). -/
def execRam64Write (input address : Bus) (s : State) : Result :=
  tickBankPorts .ram64 input address true s

/-- RAM512.READ (R94). -/
def execRam512Read (input address : Bus) (s : State) : Result :=
  tickBankPorts .ram512 input address false s

/-- RAM512.WRITE (R95). -/
def execRam512Write (input address : Bus) (s : State) : Result :=
  tickBankPorts .ram512 input address true s

/-- RAM4K.READ (R96). -/
def execRam4kRead (input address : Bus) (s : State) : Result :=
  tickBankPorts .ram4k input address false s

/-- RAM4K.WRITE (R97). -/
def execRam4kWrite (input address : Bus) (s : State) : Result :=
  tickBankPorts .ram4k input address true s

/-- RAM16K.READ (R98). -/
def execRam16kRead (input address : Bus) (s : State) : Result :=
  tickBankPorts .ram16k input address false s

/-- RAM16K.WRITE (R99). -/
def execRam16kWrite (input address : Bus) (s : State) : Result :=
  tickBankPorts .ram16k input address true s

/-- RAM32K.READ (R89: R96 with k = 5). -/
def execRam32kRead (input address : Bus) (s : State) : Result :=
  tickBankPorts .ram32k input address false s

/-- RAM32K.WRITE (R89: R97 with k = 5). -/
def execRam32kWrite (input address : Bus) (s : State) : Result :=
  tickBankPorts .ram32k input address true s

end Sys2Proof.Machine
end

