-- ==== Sys2Proof/Machine/Combinational.lean ====
section
/-! DEFINITION. The meanings of the combinational operations (43_combinational_contracts.md R101 to
R105): a value goes back to the driver and no state changes (R100). Each contract is total on its own
widths; a bus of another width breaks the driver's duty of R125 and is a Fatal (log entry 7). -/
namespace Sys2Proof.Machine

/-- MUX2 (R101). -/
def execMux2 (a b select : Port) (s : State) : Result :=
  withPorts .mux2 [bitPort .a a, bitPort .b b, bitPort .select select]
    (.next (s.putOutput (.bit (mux2 (portBit a) (portBit b) (portBit select)))))

/-- DEMUX8 (R102). -/
def execDemux8 (input : Port) (selector : Bus) (s : State) : Result :=
  withPorts .demux8 [bitPort .input input, busPort .selector 3 selector]
    (.next (s.putOutput (.lines8 (demux8 (portBit input) (busValue 3 selector)))))

/-- MUX8X16 (R103). -/
def execMux8x16 (options : List Bus) (selector : Bus) (s : State) : Result :=
  withPorts .mux8x16 (muxPorts 8 3 options selector)
    (.next (s.putOutput (.word (mux8x16 (optionWords 8 options) (busValue 3 selector)))))

/-- DEMUX4 (R104). -/
def execDemux4 (input : Port) (selector : Bus) (s : State) : Result :=
  withPorts .demux4 [bitPort .input input, busPort .selector 2 selector]
    (.next (s.putOutput (.lines4 (demux4 (portBit input) (busValue 2 selector)))))

/-- MUX4X16 (R105). -/
def execMux4x16 (options : List Bus) (selector : Bus) (s : State) : Result :=
  withPorts .mux4x16 (muxPorts 4 2 options selector)
    (.next (s.putOutput (.word (mux4x16 (optionWords 4 options) (busValue 2 selector)))))

end Sys2Proof.Machine
end

