-- ==== Sys2Proof/Machine/Latch.lean ====
section
/-! DEFINITION. The meanings of the latch and flip-flop operations (40_latch_and_flipflop.md R66 to R69,
R71, R72). `previous` is the LatchState the caller holds for the unit (R17); the tick returns the next
one, which the caller then holds. No operation here has an error condition on Bit ports. -/
namespace Sys2Proof.Machine

/-- A LATCH tick with these control inputs (R65). -/
def tickLatch (set reset : Bit) (s : State) : Result :=
  .next (s.putLatch (latch set reset s.latch))

/-- LATCH.HOLD (R66). -/
def execLatchHold (s : State) : Result := tickLatch false false s

/-- LATCH.RESET (R67). -/
def execLatchReset (s : State) : Result := tickLatch false true s

/-- LATCH.SET (R68). -/
def execLatchSet (s : State) : Result := tickLatch true false s

/-- LATCH.BOTH (R69): the invalid-but-defined input, exactly (0, 0), no error (R57, R106). -/
def execLatchBoth (s : State) : Result := tickLatch true true s

/-- A GFF tick with this enable (R70). -/
def tickGff (data : Port) (enable : Bit) (s : State) : Result :=
  withPorts .gff [bitPort .data data] (.next (s.putGff (gatedFlipFlop (portBit data) enable s.gff)))

/-- GFF.HOLD (R71). -/
def execGffHold (data : Port) (s : State) : Result := tickGff data false s

/-- GFF.COMMIT (R72). -/
def execGffCommit (data : Port) (s : State) : Result := tickGff data true s

end Sys2Proof.Machine
end

