-- ==== Sys2Proof/Machine/Registers.lean ====
section
/-! DEFINITION. The meanings of the one-bit and 16-bit register operations (41_registers.md R75, R76,
R80, R81). -/
namespace Sys2Proof.Machine

/-- A tick of the one-bit register (R74). -/
def tickBit (input : Port) (load : Bit) (s : State) : Result :=
  withPorts .bit [bitPort .input input] (.next (s.putBit (bitTick s.bit (portBit input) load)))

/-- BIT.HOLD (R75). -/
def execBitHold (input : Port) (s : State) : Result := tickBit input false s

/-- BIT.LOAD (R76). -/
def execBitLoad (input : Port) (s : State) : Result := tickBit input true s

/-- A tick of the 16-bit register (R78), after its width check (R58). -/
def tickReg16 (input : Bus) (load : Bit) (s : State) : Result :=
  withPorts .reg16 [busPort .input 16 input]
    (.next (s.putReg16 (reg16Tick s.reg16 (busWord input) load)))

/-- REG16.HOLD (R80). -/
def execReg16Hold (input : Bus) (s : State) : Result := tickReg16 input false s

/-- REG16.LOAD (R81). -/
def execReg16Load (input : Bus) (s : State) : Result := tickReg16 input true s

end Sys2Proof.Machine
end

