-- ==== Sys2Proof/Machine/Dispatch.lean ====
section
/-! DEFINITION. One arm per operation of the operation map (30_encoding.md R56). -/
namespace Sys2Proof.Machine

def exec (i : Instr) (s : State) : Host.Outcome State Fault Refusal :=
  match i with
  | .latchHold => Sys2Proof.Machine.execLatchHold s
  | .latchReset => Sys2Proof.Machine.execLatchReset s
  | .latchSet => Sys2Proof.Machine.execLatchSet s
  | .latchBoth => Sys2Proof.Machine.execLatchBoth s
  | .gffHold d => Sys2Proof.Machine.execGffHold d s
  | .gffCommit d => Sys2Proof.Machine.execGffCommit d s
  | .bitHold input => Sys2Proof.Machine.execBitHold input s
  | .bitLoad input => Sys2Proof.Machine.execBitLoad input s
  | .reg16Hold input => Sys2Proof.Machine.execReg16Hold input s
  | .reg16Load input => Sys2Proof.Machine.execReg16Load input s
  | .ram8Read input address => Sys2Proof.Machine.execRam8Read input address s
  | .ram8Write input address => Sys2Proof.Machine.execRam8Write input address s
  | .ram64Read input address => Sys2Proof.Machine.execRam64Read input address s
  | .ram64Write input address => Sys2Proof.Machine.execRam64Write input address s
  | .ram512Read input address => Sys2Proof.Machine.execRam512Read input address s
  | .ram512Write input address => Sys2Proof.Machine.execRam512Write input address s
  | .ram4kRead input address => Sys2Proof.Machine.execRam4kRead input address s
  | .ram4kWrite input address => Sys2Proof.Machine.execRam4kWrite input address s
  | .ram16kRead input address => Sys2Proof.Machine.execRam16kRead input address s
  | .ram16kWrite input address => Sys2Proof.Machine.execRam16kWrite input address s
  | .ram32kRead input address => Sys2Proof.Machine.execRam32kRead input address s
  | .ram32kWrite input address => Sys2Proof.Machine.execRam32kWrite input address s
  | .mux2 a b select => Sys2Proof.Machine.execMux2 a b select s
  | .demux8 input selector => Sys2Proof.Machine.execDemux8 input selector s
  | .mux8x16 options selector => Sys2Proof.Machine.execMux8x16 options selector s
  | .demux4 input selector => Sys2Proof.Machine.execDemux4 input selector s
  | .mux4x16 options selector => Sys2Proof.Machine.execMux4x16 options selector s

end Sys2Proof.Machine
end

