-- ==== Sys2Proof/Machine/Step.lean ====
section
/-! DEFINITION. One step: the driver makes the next tick it asks for (00_scope.md R5, 10_state.md R14).
The core has no program counter and fetches nothing (R25); what a step "fetches" is the driver's next
request. -/
namespace Sys2Proof.Machine

/-- One step. The next request is decoded and its operation run on the state, with the request taken
off and with the LatchState it passes, if it passes one, delivered. With no request left no tick is made
and nothing changes (R14 "units are passive"; log entry 6). -/
def step (s : State) : Host.Outcome State Fault Refusal :=
  match s.fetch with
  | none => .next s
  | some (r, s') =>
    match decodeRequest r with
    | .ok i => exec i (s'.deliver r)
    | .error e => decodeStop e

/-- `s` with a bare word put where the next step takes its request from, as the port vector of the unit
that `tableUnit` names (log entry 9). Nothing else changes. -/
def State.withFetchWord (s : State) (nbits w : Nat) : State :=
  { s with requests := .vector (tableUnit nbits) (tableVector nbits w) :: s.requests }

end Sys2Proof.Machine
end

