-- ==== Sys2Proof/Safety.lean ====
section
/-! DEFINITION. What claims speak of: calls and requests as what a driver passes (30_encoding.md R51,
R52), the complement invariant of the cells (10_state.md R29), which units a machine has (R7), single
cells and their draws (R31), what a tick may change (R22), and runs of ticks (70_reset_and_hazards.md
R124). -/
namespace Sys2Proof

/-! Calls and requests as what a driver passes (R51, R52). -/

/-- The unit a contract call drives (R52). -/
def Call.unit : Call → UnitName
  | .latch _ _ _ => .latch
  | .gatedFlipFlop _ _ _ => .gff
  | .bit _ _ => .bit
  | .reg16 _ _ => .reg16
  | .bank b _ _ _ => .bank b
  | .mux2 _ _ _ => .mux2
  | .demux8 _ _ => .demux8
  | .mux8x16 _ _ => .mux8x16
  | .demux4 _ _ => .demux4
  | .mux4x16 _ _ => .mux4x16

/-- All ports of a call in contract order, a one-bit port as a bus of width 1 (R51, R52). `previous` is
no port. -/
def Call.ports : Call → List Bus
  | .latch s r _ => [[s], [r]]
  | .gatedFlipFlop d e _ => [[d], [e]]
  | .bit i l => [[i], [l]]
  | .reg16 i l => [i, [l]]
  | .bank _ i a l => [i, a, [l]]
  | .mux2 a b s => [[a], [b], [s]]
  | .demux8 x t => [[x], t]
  | .mux8x16 o t => o ++ [t]
  | .demux4 x t => [[x], t]
  | .mux4x16 o t => o ++ [t]

/-- The control ports of a call, which select its operation (R51, R56): set and reset, enable, load. A
combinational contract has none. -/
def Call.controls : Call → List Port
  | .latch s r _ => [s, r]
  | .gatedFlipFlop _ e _ => [e]
  | .bit _ l => [l]
  | .reg16 _ l => [l]
  | .bank _ _ _ l => [l]
  | .mux2 _ _ _ => []
  | .demux8 _ _ => []
  | .mux8x16 _ _ => []
  | .demux4 _ _ => []
  | .mux4x16 _ _ => []

/-- Every bus of a call has its contract's width (R52). -/
def Call.widthsOk : Call → Bool
  | .latch _ _ _ => true
  | .gatedFlipFlop _ _ _ => true
  | .bit _ _ => true
  | .reg16 i _ => i.length == 16
  | .bank b i a _ => b.widthsOk i a
  | .mux2 _ _ _ => true
  | .demux8 _ t => t.length == 3
  | .mux8x16 o t => muxWidthsOk 8 3 o t
  | .demux4 _ t => t.length == 2
  | .mux4x16 o t => muxWidthsOk 4 2 o t

/-- The port vector of a call: its ports laid end to end (R51). -/
def Call.vector (c : Call) : Bus := c.ports.flatten

/-- How many control ports stand last in a unit's port vector (R52, R56). -/
def UnitName.controlWidth : UnitName → Nat
  | .latch => 2
  | .gff => 1
  | .bit => 1
  | .reg16 => 1
  | .bank _ => 1
  | .mux2 => 0
  | .demux8 => 0
  | .mux8x16 => 0
  | .demux4 => 0
  | .mux4x16 => 0

/-- The control ports of a port vector of its unit's width. -/
def UnitName.controls (u : UnitName) (ports : Bus) : List Port :=
  ports.drop (u.formatWidth - u.controlWidth)

/-- The unit a request drives. -/
def Request.unit : Request → UnitName
  | .call c => c.unit
  | .vector u _ => u

/-- Every value on every port of a request is a Bit (R8). -/
def Request.bitsOnly : Request → Bool
  | .call c => c.ports.all Bus.allBits
  | .vector _ ports => ports.allBits

/-- A request has the widths of its contract, or the one width of its unit's format (R52). -/
def Request.widthsOk : Request → Bool
  | .call c => c.widthsOk
  | .vector u ports => ports.length == u.formatWidth

end Sys2Proof

namespace Sys2Proof.Machine

/-- `nq = NOT q` (R16, R29). -/
def Complementary (l : LatchState) : Prop := l.nq = !l.q

/-- Every lane of a 16-bit register is complementary. -/
def Reg16.Complementary (r : Reg16) : Prop :=
  ∀ j : Fin 16, Machine.Complementary r.bit[j].cell

/-- Every cell of a bank is complementary: the canonical form of a bank, in which its contents
determine its whole state (R29, R41). -/
def Bank.Complementary : (k : Nat) → Bank k → Prop
  | 0, r => Reg16.Complementary r
  | k + 1, s => ∀ i : Fin 8, Bank.Complementary k s[i]

/-- Every cell of the top unit is complementary. -/
def TopUnit.Complementary : TopUnit → Prop
  | .ram16k r => ∀ i : Fin 4, Bank.Complementary 4 r.child[i]
  | .ram32k r => Bank.Complementary 5 r
  | .none => True

/-- R29's invariant: inside every BIT, REG16 and bank `nq = NOT q`. The free-standing LATCH and the
LatchState that GFF's caller keeps are not in it. -/
structure State.CellsComplementary (s : State) : Prop where
  bit : Machine.Complementary s.bit.cell
  reg16 : s.reg16.Complementary
  ram8 : Bank.Complementary 1 s.ram8
  ram64 : Bank.Complementary 2 s.ram64
  ram512 : Bank.Complementary 3 s.ram512
  ram4k : Bank.Complementary 4 s.ram4k
  top : s.top.Complementary

/-- The `TOP_BANK` a machine was built with (R7). -/
def TopUnit.kind : TopUnit → TopBank
  | .ram16k _ => .ram16k4way
  | .ram32k _ => .ram32k8way
  | .none => .none

/-- The machine has this bank (R7, D23). -/
def State.hasBank (s : State) : BankName → Prop
  | .ram16k => s.top.kind = .ram16k4way
  | .ram32k => s.top.kind = .ram32k8way
  | _ => True

/-- The machine has this unit: every unit but the two banks that `TOP_BANK` chooses between. -/
def State.hasUnit (s : State) : UnitName → Prop
  | .bank b => s.hasBank b
  | _ => True

/-- The two machines hold the same state for unit u (R12: what a tick of u reads). The combinational
contracts hold none (R100). -/
def SameUnit (u : UnitName) (s t : State) : Prop :=
  match u with
  | .latch => s.latch = t.latch
  | .gff => s.gff = t.gff
  | .bit => s.bit = t.bit
  | .reg16 => s.reg16 = t.reg16
  | .bank .ram8 => s.ram8 = t.ram8
  | .bank .ram64 => s.ram64 = t.ram64
  | .bank .ram512 => s.ram512 = t.ram512
  | .bank .ram4k => s.ram4k = t.ram4k
  | .bank .ram16k => s.top = t.top
  | .bank .ram32k => s.top = t.top
  | _ => True

/-- The LatchState of lane j of the word at address x of a level-k bank, at the word's place in the tree
(R19, R20, R40); none outside the bank. -/
def Bank.cell : (k : Nat) → Bank k → Nat → Fin 16 → Option LatchState
  | 0, r, x, j => if x = 0 then some r.bit[j].cell else none
  | k + 1, s, x, j => if h : x / 8 ^ k < 8 then Bank.cell k (s[x / 8 ^ k]'h) (x % 8 ^ k) j else none

/-- The LatchState of lane j of the word at address x of RAM16K. -/
def Ram16k.cell (s : Ram16k) (x : Nat) (j : Fin 16) : Option LatchState :=
  if h : x / 4096 < 4 then Bank.cell 4 (s.child[x / 4096]'h) (x % 4096) j else none

/-- The LatchState of lane j of the word at address x of a bank of the machine; none outside the bank or
in a top unit that is not built. -/
def State.memCell (s : State) (b : BankName) (x : Nat) (j : Fin 16) : Option LatchState :=
  match b with
  | .ram8 => Bank.cell 1 s.ram8 x j
  | .ram64 => Bank.cell 2 s.ram64 x j
  | .ram512 => Bank.cell 3 s.ram512 x j
  | .ram4k => Bank.cell 4 s.ram4k x j
  | .ram16k => match s.top with
    | .ram16k r => r.cell x j
    | _ => none
  | .ram32k => match s.top with
    | .ram32k r => Bank.cell 5 r x j
    | _ => none

/-- MODEL'S CHOICE (log entry 3): the number of the first latch of each bank, from which its draws under
`INIT_POLICY = UNSPECIFIED` are counted. RAM16K and RAM32K are never both built. -/
def drawBase : BankName → Nat
  | .ram8 => 19
  | .ram64 => 147
  | .ram512 => 1171
  | .ram4k => 9363
  | .ram16k => 74899
  | .ram32k => 74899

/-- Both names are names of one stored unit: RAM16K and RAM32K are the two forms of the top unit
(R7), every other unit is stored apart (R22). -/
def SharesStorage : UnitName → UnitName → Prop
  | .bank .ram16k, .bank .ram32k => True
  | .bank .ram32k, .bank .ram16k => True
  | u, v => u = v

/-- Runs operations one after another on a state, as a driver's ticks (R124), up to the first stop. -/
def runTicks : List Instr → State → Host.Outcome State Fault Refusal
  | [], s => .next s
  | i :: is, s =>
    match exec i s with
    | .next t => runTicks is t
    | .fault f => .fault f
    | .refused r => .refused r

/-- What is on the word at address a of a bank after these ticks of it, each with its input, address
and load, when `m` was there before: the input of the last tick that wrote there (R42). -/
def lastWritten {w : Nat} (a : BitVec w) (m : Option Word) : List (Word × BitVec w × Bit) → Option Word
  | [] => m
  | (v, c, load) :: ts => lastWritten a (if load ∧ c = a then some v else m) ts

/-- A list of ticks of one bank as operations. -/
def bankTicks (b : BankName) (ts : List (Word × BitVec b.addressWidth × Bit)) : List Instr :=
  ts.map fun t => bankOperation b (Bus.ofBitVec t.1) (Bus.ofBitVec t.2.1) t.2.2

/-- The cells of one unit are complementary (R29). The free-standing LATCH and GFF are not BITs, and a
contract has no cell: of them nothing is asked. -/
def UnitComplementary (u : UnitName) (s : State) : Prop :=
  match u with
  | .bit => Complementary s.bit.cell
  | .reg16 => s.reg16.Complementary
  | .bank .ram8 => Bank.Complementary 1 s.ram8
  | .bank .ram64 => Bank.Complementary 2 s.ram64
  | .bank .ram512 => Bank.Complementary 3 s.ram512
  | .bank .ram4k => Bank.Complementary 4 s.ram4k
  | .bank .ram16k => s.top.Complementary
  | .bank .ram32k => s.top.Complementary
  | _ => True

end Sys2Proof.Machine
end

