-- ==== Sys2Proof/Laws/State.lean ====
section
/-! SUPPORT. One lemma per field and per update of the state, and what fetching and delivering a request
do to it. -/
namespace Sys2Proof.Machine

variable (s : State)

@[simp] theorem State.putLatch_latch (l : LatchState) : (s.putLatch l).latch = l := rfl
@[simp] theorem State.putLatch_gff (l : LatchState) : (s.putLatch l).gff = s.gff := rfl
@[simp] theorem State.putLatch_bit (l : LatchState) : (s.putLatch l).bit = s.bit := rfl
@[simp] theorem State.putLatch_reg16 (l : LatchState) : (s.putLatch l).reg16 = s.reg16 := rfl
@[simp] theorem State.putLatch_ram8 (l : LatchState) : (s.putLatch l).ram8 = s.ram8 := rfl
@[simp] theorem State.putLatch_ram64 (l : LatchState) : (s.putLatch l).ram64 = s.ram64 := rfl
@[simp] theorem State.putLatch_ram512 (l : LatchState) : (s.putLatch l).ram512 = s.ram512 := rfl
@[simp] theorem State.putLatch_ram4k (l : LatchState) : (s.putLatch l).ram4k = s.ram4k := rfl
@[simp] theorem State.putLatch_top (l : LatchState) : (s.putLatch l).top = s.top := rfl
@[simp] theorem State.putLatch_output (l : LatchState) : (s.putLatch l).output = some (.latchState l) := rfl
@[simp] theorem State.putLatch_requests (l : LatchState) : (s.putLatch l).requests = s.requests := rfl

@[simp] theorem State.putGff_latch (l : LatchState) : (s.putGff l).latch = s.latch := rfl
@[simp] theorem State.putGff_gff (l : LatchState) : (s.putGff l).gff = l := rfl
@[simp] theorem State.putGff_bit (l : LatchState) : (s.putGff l).bit = s.bit := rfl
@[simp] theorem State.putGff_reg16 (l : LatchState) : (s.putGff l).reg16 = s.reg16 := rfl
@[simp] theorem State.putGff_ram8 (l : LatchState) : (s.putGff l).ram8 = s.ram8 := rfl
@[simp] theorem State.putGff_ram64 (l : LatchState) : (s.putGff l).ram64 = s.ram64 := rfl
@[simp] theorem State.putGff_ram512 (l : LatchState) : (s.putGff l).ram512 = s.ram512 := rfl
@[simp] theorem State.putGff_ram4k (l : LatchState) : (s.putGff l).ram4k = s.ram4k := rfl
@[simp] theorem State.putGff_top (l : LatchState) : (s.putGff l).top = s.top := rfl
@[simp] theorem State.putGff_output (l : LatchState) : (s.putGff l).output = some (.latchState l) := rfl
@[simp] theorem State.putGff_requests (l : LatchState) : (s.putGff l).requests = s.requests := rfl

@[simp] theorem State.putBit_latch (t : BitReg × Bit) : (s.putBit t).latch = s.latch := rfl
@[simp] theorem State.putBit_gff (t : BitReg × Bit) : (s.putBit t).gff = s.gff := rfl
@[simp] theorem State.putBit_bit (t : BitReg × Bit) : (s.putBit t).bit = t.1 := rfl
@[simp] theorem State.putBit_reg16 (t : BitReg × Bit) : (s.putBit t).reg16 = s.reg16 := rfl
@[simp] theorem State.putBit_ram8 (t : BitReg × Bit) : (s.putBit t).ram8 = s.ram8 := rfl
@[simp] theorem State.putBit_ram64 (t : BitReg × Bit) : (s.putBit t).ram64 = s.ram64 := rfl
@[simp] theorem State.putBit_ram512 (t : BitReg × Bit) : (s.putBit t).ram512 = s.ram512 := rfl
@[simp] theorem State.putBit_ram4k (t : BitReg × Bit) : (s.putBit t).ram4k = s.ram4k := rfl
@[simp] theorem State.putBit_top (t : BitReg × Bit) : (s.putBit t).top = s.top := rfl
@[simp] theorem State.putBit_output (t : BitReg × Bit) : (s.putBit t).output = some (.bit t.2) := rfl
@[simp] theorem State.putBit_requests (t : BitReg × Bit) : (s.putBit t).requests = s.requests := rfl

@[simp] theorem State.putReg16_latch (t : Reg16 × Word) : (s.putReg16 t).latch = s.latch := rfl
@[simp] theorem State.putReg16_gff (t : Reg16 × Word) : (s.putReg16 t).gff = s.gff := rfl
@[simp] theorem State.putReg16_bit (t : Reg16 × Word) : (s.putReg16 t).bit = s.bit := rfl
@[simp] theorem State.putReg16_reg16 (t : Reg16 × Word) : (s.putReg16 t).reg16 = t.1 := rfl
@[simp] theorem State.putReg16_ram8 (t : Reg16 × Word) : (s.putReg16 t).ram8 = s.ram8 := rfl
@[simp] theorem State.putReg16_ram64 (t : Reg16 × Word) : (s.putReg16 t).ram64 = s.ram64 := rfl
@[simp] theorem State.putReg16_ram512 (t : Reg16 × Word) : (s.putReg16 t).ram512 = s.ram512 := rfl
@[simp] theorem State.putReg16_ram4k (t : Reg16 × Word) : (s.putReg16 t).ram4k = s.ram4k := rfl
@[simp] theorem State.putReg16_top (t : Reg16 × Word) : (s.putReg16 t).top = s.top := rfl
@[simp] theorem State.putReg16_output (t : Reg16 × Word) : (s.putReg16 t).output = some (.word t.2) := rfl
@[simp] theorem State.putReg16_requests (t : Reg16 × Word) : (s.putReg16 t).requests = s.requests := rfl

@[simp] theorem State.putRam8_latch (t : Bank 1 × Word) : (s.putRam8 t).latch = s.latch := rfl
@[simp] theorem State.putRam8_gff (t : Bank 1 × Word) : (s.putRam8 t).gff = s.gff := rfl
@[simp] theorem State.putRam8_bit (t : Bank 1 × Word) : (s.putRam8 t).bit = s.bit := rfl
@[simp] theorem State.putRam8_reg16 (t : Bank 1 × Word) : (s.putRam8 t).reg16 = s.reg16 := rfl
@[simp] theorem State.putRam8_ram8 (t : Bank 1 × Word) : (s.putRam8 t).ram8 = t.1 := rfl
@[simp] theorem State.putRam8_ram64 (t : Bank 1 × Word) : (s.putRam8 t).ram64 = s.ram64 := rfl
@[simp] theorem State.putRam8_ram512 (t : Bank 1 × Word) : (s.putRam8 t).ram512 = s.ram512 := rfl
@[simp] theorem State.putRam8_ram4k (t : Bank 1 × Word) : (s.putRam8 t).ram4k = s.ram4k := rfl
@[simp] theorem State.putRam8_top (t : Bank 1 × Word) : (s.putRam8 t).top = s.top := rfl
@[simp] theorem State.putRam8_output (t : Bank 1 × Word) : (s.putRam8 t).output = some (.word t.2) := rfl
@[simp] theorem State.putRam8_requests (t : Bank 1 × Word) : (s.putRam8 t).requests = s.requests := rfl

@[simp] theorem State.putRam64_latch (t : Bank 2 × Word) : (s.putRam64 t).latch = s.latch := rfl
@[simp] theorem State.putRam64_gff (t : Bank 2 × Word) : (s.putRam64 t).gff = s.gff := rfl
@[simp] theorem State.putRam64_bit (t : Bank 2 × Word) : (s.putRam64 t).bit = s.bit := rfl
@[simp] theorem State.putRam64_reg16 (t : Bank 2 × Word) : (s.putRam64 t).reg16 = s.reg16 := rfl
@[simp] theorem State.putRam64_ram8 (t : Bank 2 × Word) : (s.putRam64 t).ram8 = s.ram8 := rfl
@[simp] theorem State.putRam64_ram64 (t : Bank 2 × Word) : (s.putRam64 t).ram64 = t.1 := rfl
@[simp] theorem State.putRam64_ram512 (t : Bank 2 × Word) : (s.putRam64 t).ram512 = s.ram512 := rfl
@[simp] theorem State.putRam64_ram4k (t : Bank 2 × Word) : (s.putRam64 t).ram4k = s.ram4k := rfl
@[simp] theorem State.putRam64_top (t : Bank 2 × Word) : (s.putRam64 t).top = s.top := rfl
@[simp] theorem State.putRam64_output (t : Bank 2 × Word) : (s.putRam64 t).output = some (.word t.2) := rfl
@[simp] theorem State.putRam64_requests (t : Bank 2 × Word) : (s.putRam64 t).requests = s.requests := rfl

@[simp] theorem State.putRam512_latch (t : Bank 3 × Word) : (s.putRam512 t).latch = s.latch := rfl
@[simp] theorem State.putRam512_gff (t : Bank 3 × Word) : (s.putRam512 t).gff = s.gff := rfl
@[simp] theorem State.putRam512_bit (t : Bank 3 × Word) : (s.putRam512 t).bit = s.bit := rfl
@[simp] theorem State.putRam512_reg16 (t : Bank 3 × Word) : (s.putRam512 t).reg16 = s.reg16 := rfl
@[simp] theorem State.putRam512_ram8 (t : Bank 3 × Word) : (s.putRam512 t).ram8 = s.ram8 := rfl
@[simp] theorem State.putRam512_ram64 (t : Bank 3 × Word) : (s.putRam512 t).ram64 = s.ram64 := rfl
@[simp] theorem State.putRam512_ram512 (t : Bank 3 × Word) : (s.putRam512 t).ram512 = t.1 := rfl
@[simp] theorem State.putRam512_ram4k (t : Bank 3 × Word) : (s.putRam512 t).ram4k = s.ram4k := rfl
@[simp] theorem State.putRam512_top (t : Bank 3 × Word) : (s.putRam512 t).top = s.top := rfl
@[simp] theorem State.putRam512_output (t : Bank 3 × Word) : (s.putRam512 t).output = some (.word t.2) := rfl
@[simp] theorem State.putRam512_requests (t : Bank 3 × Word) : (s.putRam512 t).requests = s.requests := rfl

@[simp] theorem State.putRam4k_latch (t : Bank 4 × Word) : (s.putRam4k t).latch = s.latch := rfl
@[simp] theorem State.putRam4k_gff (t : Bank 4 × Word) : (s.putRam4k t).gff = s.gff := rfl
@[simp] theorem State.putRam4k_bit (t : Bank 4 × Word) : (s.putRam4k t).bit = s.bit := rfl
@[simp] theorem State.putRam4k_reg16 (t : Bank 4 × Word) : (s.putRam4k t).reg16 = s.reg16 := rfl
@[simp] theorem State.putRam4k_ram8 (t : Bank 4 × Word) : (s.putRam4k t).ram8 = s.ram8 := rfl
@[simp] theorem State.putRam4k_ram64 (t : Bank 4 × Word) : (s.putRam4k t).ram64 = s.ram64 := rfl
@[simp] theorem State.putRam4k_ram512 (t : Bank 4 × Word) : (s.putRam4k t).ram512 = s.ram512 := rfl
@[simp] theorem State.putRam4k_ram4k (t : Bank 4 × Word) : (s.putRam4k t).ram4k = t.1 := rfl
@[simp] theorem State.putRam4k_top (t : Bank 4 × Word) : (s.putRam4k t).top = s.top := rfl
@[simp] theorem State.putRam4k_output (t : Bank 4 × Word) : (s.putRam4k t).output = some (.word t.2) := rfl
@[simp] theorem State.putRam4k_requests (t : Bank 4 × Word) : (s.putRam4k t).requests = s.requests := rfl

@[simp] theorem State.putTop_latch (t : TopUnit × Word) : (s.putTop t).latch = s.latch := rfl
@[simp] theorem State.putTop_gff (t : TopUnit × Word) : (s.putTop t).gff = s.gff := rfl
@[simp] theorem State.putTop_bit (t : TopUnit × Word) : (s.putTop t).bit = s.bit := rfl
@[simp] theorem State.putTop_reg16 (t : TopUnit × Word) : (s.putTop t).reg16 = s.reg16 := rfl
@[simp] theorem State.putTop_ram8 (t : TopUnit × Word) : (s.putTop t).ram8 = s.ram8 := rfl
@[simp] theorem State.putTop_ram64 (t : TopUnit × Word) : (s.putTop t).ram64 = s.ram64 := rfl
@[simp] theorem State.putTop_ram512 (t : TopUnit × Word) : (s.putTop t).ram512 = s.ram512 := rfl
@[simp] theorem State.putTop_ram4k (t : TopUnit × Word) : (s.putTop t).ram4k = s.ram4k := rfl
@[simp] theorem State.putTop_top (t : TopUnit × Word) : (s.putTop t).top = t.1 := rfl
@[simp] theorem State.putTop_output (t : TopUnit × Word) : (s.putTop t).output = some (.word t.2) := rfl
@[simp] theorem State.putTop_requests (t : TopUnit × Word) : (s.putTop t).requests = s.requests := rfl

@[simp] theorem State.putOutput_latch (o : Output) : (s.putOutput o).latch = s.latch := rfl
@[simp] theorem State.putOutput_gff (o : Output) : (s.putOutput o).gff = s.gff := rfl
@[simp] theorem State.putOutput_bit (o : Output) : (s.putOutput o).bit = s.bit := rfl
@[simp] theorem State.putOutput_reg16 (o : Output) : (s.putOutput o).reg16 = s.reg16 := rfl
@[simp] theorem State.putOutput_ram8 (o : Output) : (s.putOutput o).ram8 = s.ram8 := rfl
@[simp] theorem State.putOutput_ram64 (o : Output) : (s.putOutput o).ram64 = s.ram64 := rfl
@[simp] theorem State.putOutput_ram512 (o : Output) : (s.putOutput o).ram512 = s.ram512 := rfl
@[simp] theorem State.putOutput_ram4k (o : Output) : (s.putOutput o).ram4k = s.ram4k := rfl
@[simp] theorem State.putOutput_top (o : Output) : (s.putOutput o).top = s.top := rfl
@[simp] theorem State.putOutput_output (o : Output) : (s.putOutput o).output = some o := rfl
@[simp] theorem State.putOutput_requests (o : Output) : (s.putOutput o).requests = s.requests := rfl

/-- Fetching answers nothing exactly when the driver asks for no tick. -/
theorem State.fetch_none_iff : s.fetch = none ↔ s.requests = [] := by
  unfold State.fetch; split <;> simp_all

/-- Fetching takes the first request off the list and changes nothing else. -/
@[simp] theorem State.fetch_cons (r : Request) (rest : List Request) (h : s.requests = r :: rest) :
    s.fetch = some (r, { s with requests := rest }) := by
  unfold State.fetch; rw [h]

/-- A request that passes no LatchState delivers nothing. -/
@[simp] theorem State.deliver_vector (u : UnitName) (b : Bus) : s.deliver (.vector u b) = s := rfl

/-- Everything delivering a request can do: it replaces the LatchState held for LATCH, or the one held
for GFF, or it changes nothing. -/
theorem State.deliver_cases (r : Request) :
    (∃ p, s.deliver r = { s with latch := p }) ∨ (∃ p, s.deliver r = { s with gff := p }) ∨
      s.deliver r = s := by
  unfold State.deliver
  split
  · exact .inl ⟨_, rfl⟩
  · exact .inr (.inl ⟨_, rfl⟩)
  · exact .inr (.inr rfl)

@[simp] theorem State.deliver_bit (r : Request) : (s.deliver r).bit = s.bit := by
  unfold State.deliver; split <;> rfl

@[simp] theorem State.deliver_reg16 (r : Request) : (s.deliver r).reg16 = s.reg16 := by
  unfold State.deliver; split <;> rfl

@[simp] theorem State.deliver_ram8 (r : Request) : (s.deliver r).ram8 = s.ram8 := by
  unfold State.deliver; split <;> rfl

@[simp] theorem State.deliver_ram64 (r : Request) : (s.deliver r).ram64 = s.ram64 := by
  unfold State.deliver; split <;> rfl

@[simp] theorem State.deliver_ram512 (r : Request) : (s.deliver r).ram512 = s.ram512 := by
  unfold State.deliver; split <;> rfl

@[simp] theorem State.deliver_ram4k (r : Request) : (s.deliver r).ram4k = s.ram4k := by
  unfold State.deliver; split <;> rfl

@[simp] theorem State.deliver_top (r : Request) : (s.deliver r).top = s.top := by
  unfold State.deliver; split <;> rfl

@[simp] theorem State.deliver_output (r : Request) : (s.deliver r).output = s.output := by
  unfold State.deliver; split <;> rfl

@[simp] theorem State.deliver_requests (r : Request) : (s.deliver r).requests = s.requests := by
  unfold State.deliver; split <;> rfl

end Sys2Proof.Machine
end

