-- ==== Sys2Proof/Laws/Operands.lean ====
section
/-! SUPPORT. What the port check and the reading of ports do (R10, R58, R59). -/
namespace Sys2Proof

@[simp] theorem Bus.length_ofNat (w n : Nat) : (Bus.ofNat w n).length = w := by
  induction w with
  | zero => rfl
  | succ w ih => simp [Bus.ofNat, ih]

@[simp] theorem Bus.length_ofBitVec {w : Nat} (v : BitVec w) : (Bus.ofBitVec v).length = w :=
  Bus.length_ofNat w _

theorem Bus.isBit_of_mem_ofNat {w n x : Nat} (h : x ∈ Bus.ofNat w n) : Port.isBit x = true := by
  induction w with
  | zero => simp [Bus.ofNat] at h
  | succ w ih =>
    rcases List.mem_cons.1 h with rfl | h
    · simpa [Port.isBit] using Nat.mod_lt (n / 2 ^ w) (by decide : 2 > 0)
    · exact ih h

theorem Bus.isBit_of_mem_ofBitVec {w : Nat} {v : BitVec w} {x : Nat} (h : x ∈ Bus.ofBitVec v) :
    Port.isBit x = true :=
  Bus.isBit_of_mem_ofNat h

@[simp] theorem Bus.allBits_ofBitVec {w : Nat} (v : BitVec w) : Bus.allBits (Bus.ofBitVec v) = true :=
  List.all_eq_true.2 fun _ h => Bus.isBit_of_mem_ofBitVec h

@[simp] theorem Port.isBit_ofBit (b : Bit) : Port.isBit (Port.ofBit b) = true := by cases b <;> rfl

namespace Machine

theorem busVal_ofNat (w n : Nat) : busVal (Bus.ofNat w n) = n % 2 ^ w := by
  induction w with
  | zero => simp [Bus.ofNat, busVal, Nat.mod_one]
  | succ w ih =>
    simp only [Bus.ofNat, busVal, Bus.length_ofNat, ih]
    rw [Nat.pow_succ, Nat.mod_mul]
    ring

/-- A bus of Bits of width w is a number below 2^w. -/
theorem busVal_lt (b : Bus) (h : Bus.allBits b = true) : busVal b < 2 ^ b.length := by
  induction b with
  | nil => simp [busVal]
  | cons x xs ih =>
    simp only [Bus.allBits, List.all_cons, Bool.and_eq_true] at h
    have hx : @LT.lt Nat _ x 2 := by simpa [Port.isBit] using h.1
    have hlt := ih h.2
    rcases (by omega : @Eq Nat x 0 ∨ @Eq Nat x 1) with rfl | rfl <;>
      simp only [busVal, List.length_cons, Nat.pow_succ] <;> omega

theorem ofNat_add_mul (w m n : Nat) : Bus.ofNat w (m * 2 ^ w + n) = Bus.ofNat w n := by
  induction w generalizing m with
  | zero => rfl
  | succ w ih =>
    have e : m * 2 ^ (w + 1) + n = (m * 2) * 2 ^ w + n := by rw [Nat.pow_succ]; ring
    simp only [Bus.ofNat]
    rw [e, ih]
    congr 1
    rw [Nat.add_comm, Nat.add_mul_div_right _ _ (Nat.two_pow_pos w), Nat.add_mul_mod_self_right]

/-- A bus of Bits is the bus of its own value. -/
theorem ofNat_busVal (b : Bus) (h : Bus.allBits b = true) : Bus.ofNat b.length (busVal b) = b := by
  induction b with
  | nil => rfl
  | cons x xs ih =>
    simp only [Bus.allBits, List.all_cons, Bool.and_eq_true] at h
    have hx : @LT.lt Nat _ x 2 := by simpa [Port.isBit] using h.1
    have hlt := busVal_lt xs h.2
    simp only [List.length_cons, busVal, Bus.ofNat]
    rw [ofNat_add_mul, ih h.2, Nat.add_comm, Nat.add_mul_div_right _ _ (Nat.two_pow_pos _),
      Nat.div_eq_of_lt hlt, Nat.zero_add, Nat.mod_eq_of_lt hx]

@[simp] theorem busValue_ofBitVec {w : Nat} (v : BitVec w) : busValue w (Bus.ofBitVec v) = v := by
  apply BitVec.eq_of_toNat_eq
  simp [busValue, Bus.ofBitVec, busVal_ofNat]

@[simp] theorem busWord_ofBitVec (v : Word) : busWord (Bus.ofBitVec v) = v := busValue_ofBitVec v

/-- Every bus that fits width w carries a value of width w: nothing is lost by speaking of
`Bus.ofBitVec v`. -/
theorem exists_ofBitVec {w : Nat} (b : Bus) (hw : b.length = w) (h : Bus.allBits b = true) :
    ∃ v : BitVec w, b = Bus.ofBitVec v := by
  subst hw
  refine ⟨BitVec.ofNat _ (busVal b), ?_⟩
  rw [Bus.ofBitVec, BitVec.toNat_ofNat, Nat.mod_eq_of_lt (busVal_lt b h), ofNat_busVal b h]

@[simp] theorem portBit_ofBit (b : Bit) : portBit (Port.ofBit b) = b := by cases b <;> rfl

/-- Every port value that is a Bit carries a Bit. -/
theorem exists_ofBit (x : Port) (h : Port.isBit x = true) : ∃ b, x = Port.ofBit b := by
  have : x < 2 := by simpa [Port.isBit] using h
  match x, this with
  | 0, _ => exact ⟨false, rfl⟩
  | 1, _ => exact ⟨true, rfl⟩

/-- A malformed vector of Bits is a width error (log entry 7). -/
theorem malformedVector_of_allBits (u : UnitName) {ports : Bus} (h : ports.allBits = true) :
    malformedVector u ports = .width u .vector ports.length := by
  have hn : ports.find? (fun x => !Port.isBit x) = none := by
    simpa [Bus.allBits, List.find?_eq_none] using h
  simp only [malformedVector, hn]

/-- A malformed vector that carries a value outside 0 and 1 is refused for it (log entry 8). -/
theorem malformedVector_of_nonBit (u : UnitName) {ports : Bus} (h : ports.allBits = false) :
    ∃ x, malformedVector u ports = .nonBit u .vector x ∧ 2 ≤ x := by
  unfold malformedVector
  split
  · rename_i x hx
    have h1 : ¬ @LT.lt Nat _ x 2 := by simpa [Port.isBit] using List.find?_some hx
    exact ⟨x, rfl, Nat.le_of_not_lt h1⟩
  · rename_i hx
    rw [List.find?_eq_none] at hx
    have : ports.allBits = true := by simpa [Bus.allBits] using hx
    simp [this] at h

/-! The port check. -/

theorem firstNonBit_eq_none {cs : List PortCheck} :
    firstNonBit cs = none ↔ ∀ c ∈ cs, Bus.allBits c.values = true := by
  induction cs with
  | nil => simp [firstNonBit]
  | cons c cs ih =>
    simp only [firstNonBit]
    split
    · rename_i x hx
      simp only [reduceCtorEq, List.mem_cons, false_iff]
      intro h
      have := List.find?_some hx
      have hm := List.mem_of_find?_eq_some hx
      have := List.all_eq_true.1 (h c (.inl rfl)) x hm
      simp_all
    · rename_i hx
      simp only [ih, List.mem_cons, forall_eq_or_imp, iff_and_self]
      intro _
      simpa [Bus.allBits, List.find?_eq_none] using hx

theorem firstNonBit_some {cs : List PortCheck} {p : PortName} {x : Nat}
    (h : firstNonBit cs = some (p, x)) : 2 ≤ x := by
  induction cs with
  | nil => simp [firstNonBit] at h
  | cons c cs ih =>
    simp only [firstNonBit] at h
    split at h
    · rename_i y hy
      have := List.find?_some hy
      simp only [Option.some.injEq, Prod.mk.injEq] at h
      have hx : ¬ @LT.lt Nat _ y 2 := by simpa [Port.isBit] using this
      have hxy : @Eq Nat y x := h.2
      omega
    · exact ih h

theorem firstWidth_eq_none {cs : List PortCheck} :
    firstWidth cs = none ↔ ∀ c ∈ cs, c.found = c.want := by
  induction cs with
  | nil => simp [firstWidth]
  | cons c cs ih => simp only [firstWidth]; split <;> simp_all

/-- Everything the port check can do: refuse a value that is no Bit, raise BUS_WIDTH, or let the tick
run. -/
theorem withPorts_cases (u : UnitName) (cs : List PortCheck) (r : Result) :
    (∃ p x, 2 ≤ x ∧ firstNonBit cs = some (p, x) ∧ withPorts u cs r = .refused (.nonBit u p x)) ∨
    (∃ p n, firstNonBit cs = none ∧ firstWidth cs = some (p, n) ∧
      withPorts u cs r = .fault (.busWidth u p n)) ∨
    (firstNonBit cs = none ∧ firstWidth cs = none ∧ withPorts u cs r = r) := by
  unfold withPorts
  split
  · rename_i p x h
    exact .inl ⟨p, x, firstNonBit_some h, h, rfl⟩
  · rename_i h
    split
    · rename_i p n h'
      exact .inr (.inl ⟨p, n, h, h', rfl⟩)
    · rename_i h'
      exact .inr (.inr ⟨h, h', rfl⟩)

/-- A tick that answers a next state has passed the port check. -/
theorem withPorts_next {u : UnitName} {cs : List PortCheck} {r : Result} {t : State}
    (h : withPorts u cs r = .next t) : r = .next t := by
  rcases withPorts_cases u cs r with ⟨p, x, -, -, e⟩ | ⟨p, n, -, -, e⟩ | ⟨-, -, e⟩ <;> simp_all

/-- Ports that are all Bits of the contract's widths pass the check. -/
theorem withPorts_ok {u : UnitName} {cs : List PortCheck} {r : Result}
    (hb : ∀ c ∈ cs, Bus.allBits c.values = true) (hw : ∀ c ∈ cs, c.found = c.want) :
    withPorts u cs r = r := by
  simp [withPorts, firstNonBit_eq_none.2 hb, firstWidth_eq_none.2 hw]

@[simp] theorem allBits_bitPort (p : PortName) (b : Bit) :
    Bus.allBits (bitPort p (Port.ofBit b)).values = true := by
  simp [bitPort, Bus.allBits]

@[simp] theorem withPorts_bankPorts (b : BankName) (v : Word) (a : BitVec b.addressWidth) (r : Result) :
    withPorts (.bank b) (bankPorts b (Bus.ofBitVec v) (Bus.ofBitVec a)) r = r :=
  withPorts_ok (by simp [bankPorts, busPort]) (by simp [bankPorts, busPort])

@[simp] theorem withPorts_busPort (u : UnitName) (p : PortName) (w : Nat) (v : BitVec w) (r : Result) :
    withPorts u [busPort p w (Bus.ofBitVec v)] r = r :=
  withPorts_ok (by simp [busPort]) (by simp [busPort])

@[simp] theorem withPorts_bitPort (u : UnitName) (p : PortName) (b : Bit) (r : Result) :
    withPorts u [bitPort p (Port.ofBit b)] r = r :=
  withPorts_ok (by simp) (by simp [bitPort])

@[simp] theorem withPorts_demuxPorts (u : UnitName) (w : Nat) (x : Bit) (t : BitVec w) (r : Result) :
    withPorts u [bitPort .input (Port.ofBit x), busPort .selector w (Bus.ofBitVec t)] r = r :=
  withPorts_ok (by simp [busPort]) (by simp [busPort, bitPort])

@[simp] theorem withPorts_mux2Ports (u : UnitName) (a b s : Bit) (r : Result) :
    withPorts u [bitPort .a (Port.ofBit a), bitPort .b (Port.ofBit b),
      bitPort .select (Port.ofBit s)] r = r :=
  withPorts_ok (by simp) (by simp [bitPort])

@[simp] theorem length_ofWords {n : Nat} (o : Vector Word n) : (Bus.ofWords o).length = n := by
  simp [Bus.ofWords]

@[simp] theorem optionWords_ofWords {n : Nat} (o : Vector Word n) :
    optionWords n (Bus.ofWords o) = o := by
  apply Vector.ext
  intro i hi
  simp [optionWords, Bus.ofWords]

@[simp] theorem withPorts_muxPorts (u : UnitName) (n w : Nat) (o : Vector Word n) (t : BitVec w)
    (r : Result) :
    withPorts u (muxPorts n w (Bus.ofWords o) (Bus.ofBitVec t)) r = r := by
  have hm : ∀ q ∈ (Bus.ofWords o).zipIdx, ∃ v : Word, q.1 = Bus.ofBitVec v := by
    intro q hq
    have := List.fst_mem_of_mem_zipIdx hq
    simp only [Bus.ofWords, List.mem_map] at this
    obtain ⟨v, -, hv⟩ := this
    exact ⟨v, hv.symm⟩
  apply withPorts_ok
  · intro c hc
    simp only [muxPorts, List.cons_append, List.mem_cons, List.mem_append, List.mem_map,
      List.not_mem_nil, or_false] at hc
    rcases hc with rfl | ⟨q, hq, rfl⟩ | rfl
    · rfl
    · obtain ⟨v, hv⟩ := hm q hq
      simp [busPort, hv]
    · simp [busPort]
  · intro c hc
    simp only [muxPorts, List.cons_append, List.mem_cons, List.mem_append, List.mem_map,
      List.not_mem_nil, or_false] at hc
    rcases hc with rfl | ⟨q, hq, rfl⟩ | rfl
    · simp
    · obtain ⟨v, hv⟩ := hm q hq
      simp [busPort, hv]
    · simp [busPort]

end Machine

end Sys2Proof
end

