-- ==== Sys2Proof/Laws/Registers.lean ====
section
/-! SUPPORT. What the combinational contracts, the latch, the flip-flop and the ticks of the two
registers do: the lemmas that later proofs cite instead of unfolding them. -/
namespace Sys2Proof.Machine

/-! Contracts. -/

/-- Line i of DEMUX8 is the input at the selected position and 0 elsewhere (R102). -/
@[simp] theorem demux8_getElem (x : Bit) (t : BitVec 3) (i : Nat) (h : i < 8) :
    (demux8 x t)[i] = (x && i == t.toNat) := by
  simp only [demux8, Vector.getElem_ofFn]
  by_cases hi : i = t.toNat <;> simp [hi]

/-- Line i of DEMUX4 is the input at the selected position and 0 elsewhere (R104). -/
@[simp] theorem demux4_getElem (x : Bit) (t : BitVec 2) (i : Nat) (h : i < 4) :
    (demux4 x t)[i] = (x && i == t.toNat) := by
  simp only [demux4, Vector.getElem_ofFn]
  by_cases hi : i = t.toNat <;> simp [hi]

@[simp] theorem mux8x16_ofFn (f : Fin 8 → Word) (t : BitVec 3) :
    mux8x16 (Vector.ofFn f) t = f ⟨t.toNat, t.isLt⟩ := by
  simp [mux8x16]

@[simp] theorem mux4x16_ofFn (f : Fin 4 → Word) (t : BitVec 2) :
    mux4x16 (Vector.ofFn f) t = f ⟨t.toNat, t.isLt⟩ := by
  simp [mux4x16]

@[simp] theorem mux2_false (a b : Bit) : mux2 a b false = a := rfl

@[simp] theorem mux2_true (a b : Bit) : mux2 a b true = b := rfl

/-! Latch and flip-flop. -/

@[simp] theorem latch_hold (l : LatchState) : latch false false l = l := rfl

@[simp] theorem latch_reset (l : LatchState) : latch false true l = { q := false, nq := true } := rfl

@[simp] theorem latch_set (l : LatchState) : latch true false l = { q := true, nq := false } := rfl

@[simp] theorem latch_both (l : LatchState) : latch true true l = { q := false, nq := false } := rfl

@[simp] theorem gatedFlipFlop_hold (d : Bit) (l : LatchState) : gatedFlipFlop d false l = l := rfl

/-- GFF.COMMIT yields q = data and nq = NOT data (R72). -/
@[simp] theorem gatedFlipFlop_commit (d : Bit) (l : LatchState) :
    gatedFlipFlop d true l = { q := d, nq := !d } := by
  cases d <;> rfl

/-! The one-bit register. -/

/-- Everything a BIT tick does: it stores the selected value and its complement and returns that value
(R75, R76). -/
theorem bitTick_eq (s : BitReg) (i l : Bit) :
    bitTick s i l =
      ({ cell := { q := mux2 s.cell.q i l, nq := !mux2 s.cell.q i l } }, mux2 s.cell.q i l) := by
  simp [bitTick]

/-- A BIT tick leaves the cell complementary, whatever it was (R29). -/
theorem bitTick_complementary (s : BitReg) (i l : Bit) : Complementary (bitTick s i l).1.cell := by
  simp [bitTick_eq, Complementary]

/-- A hold leaves a complementary cell as it is (R37). -/
theorem bitTick_hold_of_complementary {s : BitReg} (h : Complementary s.cell) (i : Bit) :
    (bitTick s i false).1 = s := by
  rw [bitTick_eq, mux2_false]
  exact congrArg BitReg.mk (congrArg (LatchState.mk s.cell.q) h.symm)

/-! The 16-bit register. -/

@[simp] theorem ofFnBE_getMsbD {n : Nat} (v : BitVec n) :
    BitVec.ofFnBE (fun j : Fin n => v.getMsbD j.val) = v := by
  apply BitVec.eq_of_getMsbD_eq
  intro i hi
  rw [BitVec.getMsbD_ofFnBE, dif_pos hi]

@[simp] theorem reg16Tick_bit (s : Reg16) (v : Word) (l : Bit) (j : Nat) (h : j < 16) :
    (reg16Tick s v l).1.bit[j] = (bitTick s.bit[j] (v.getMsbD j) l).1 := by
  simp [reg16Tick]

/-- A LOAD returns the input (R81). -/
@[simp] theorem reg16Tick_load_out (s : Reg16) (v : Word) : (reg16Tick s v true).2 = v := by
  simp [reg16Tick, bitTick_eq]

/-- A HOLD returns the value held (R80). -/
@[simp] theorem reg16Tick_hold_out (s : Reg16) (v : Word) : (reg16Tick s v false).2 = s.value := by
  simp [reg16Tick, bitTick_eq, Reg16.value]

/-- The value after a tick is the value it returns: a REG16 is write-through (R127). -/
@[simp] theorem reg16Tick_value (s : Reg16) (v : Word) (l : Bit) :
    (reg16Tick s v l).1.value = (reg16Tick s v l).2 := by
  simp [reg16Tick, bitTick_eq, Reg16.value]

/-- A REG16 tick leaves every lane complementary (R29). -/
theorem reg16Tick_complementary (s : Reg16) (v : Word) (l : Bit) :
    (reg16Tick s v l).1.Complementary := by
  intro j
  simpa [reg16Tick] using bitTick_complementary _ _ _

/-- Two complementary registers of one value are one register. -/
theorem Reg16.eq_of_value_eq {r s : Reg16} (hr : r.Complementary) (hs : s.Complementary)
    (h : r.value = s.value) : r = s := by
  have hq : ∀ j : Fin 16, r.bit[j].cell.q = s.bit[j].cell.q := by
    intro j
    have := congrArg (BitVec.getMsbD · j.val) h
    simpa [Reg16.value, BitVec.getMsbD_ofFnBE] using this
  obtain ⟨rb⟩ := r
  obtain ⟨sb⟩ := s
  congr 1
  apply Vector.ext
  intro i hi
  have h1 := hq ⟨i, hi⟩
  have h2 := hr ⟨i, hi⟩
  have h3 := hs ⟨i, hi⟩
  simp only [Machine.Complementary, Fin.getElem_fin] at h1 h2 h3
  rcases hr' : rb[i] with ⟨⟨a, b⟩⟩
  rcases hs' : sb[i] with ⟨⟨c, d⟩⟩
  simp_all

/-- A freshly constructed register under `INIT_POLICY = ZERO` is complementary. -/
theorem Reg16.construct_complementary (base : Nat) : (Reg16.construct .zero base).Complementary := by
  intro j
  simp [Reg16.construct, initialCell, Machine.Complementary]

/-- A freshly constructed register under `INIT_POLICY = ZERO` holds 0 (R31). -/
theorem Reg16.construct_value (base : Nat) : (Reg16.construct .zero base).value = 0 := by
  apply BitVec.eq_of_getMsbD_eq
  intro i hi
  simp [Reg16.construct, initialCell, Reg16.value, BitVec.getMsbD_ofFnBE]

end Sys2Proof.Machine
end

