-- ==== Sys2Proof/Laws/Banks.lean ====
section
/-! SUPPORT. What a bank tick does, once for all levels: its output, the contents after it, the
complement of its cells (20_memory.md R40, R41; 10_state.md R29). -/
namespace Sys2Proof.Machine

/-! Address fields (R53, R40). -/

theorem eight_pow (k : Nat) : 8 ^ k = 2 ^ (3 * k) := by
  rw [Nat.pow_mul]

/-- An address of a level-k bank is below its number of words (R32). -/
theorem address_lt (k : Nat) (a : BitVec (3 * k)) : a.toNat < 8 ^ k := by
  rw [eight_pow]; exact a.isLt

theorem top3_toNat (k : Nat) (a : BitVec (3 * (k + 1))) : (top3 k a).toNat = a.toNat / 8 ^ k := by
  have h : a.toNat < 8 ^ k * 8 := by rw [← Nat.pow_succ]; exact address_lt (k + 1) a
  have h' : a.toNat / 8 ^ k < 8 := Nat.div_lt_of_lt_mul h
  rw [top3, BitVec.extractLsb'_toNat, Nat.shiftRight_eq_div_pow, ← eight_pow]
  exact Nat.mod_eq_of_lt h'

theorem rest_toNat (k : Nat) (a : BitVec (3 * (k + 1))) : (rest k a).toNat = a.toNat % 8 ^ k := by
  rw [rest, BitVec.extractLsb'_toNat, Nat.shiftRight_zero, ← eight_pow]

theorem top2_toNat (a : BitVec 14) : (top2 a).toNat = a.toNat / 4096 := by
  have := a.isLt
  rw [top2, BitVec.extractLsb'_toNat, Nat.shiftRight_eq_div_pow]
  omega

theorem rest12_toNat (a : BitVec 14) : (rest12 a).toNat = a.toNat % 4096 := by
  rw [rest12, BitVec.extractLsb'_toNat, Nat.shiftRight_zero]

/-- Splitting an address at a power of 8 and joining it again. -/
theorem eq_iff_div_mod {a b n : Nat} : a = b ↔ a / n = b / n ∧ a % n = b % n := by
  refine ⟨fun h => h ▸ ⟨rfl, rfl⟩, fun ⟨h1, h2⟩ => ?_⟩
  rw [← Nat.div_add_mod a n, ← Nat.div_add_mod b n, h1, h2]

/-! One level of a bank. -/

/-- Child i after a bank tick: ticked with the same input and rest, and with the load only if it is
the addressed one (R82 to R84). -/
theorem bankTick_child (k : Nat) (s : Bank (k + 1)) (v : Word) (a : BitVec (3 * (k + 1))) (l : Bit)
    (i : Nat) (h : i < 8) :
    (bankTick (k + 1) s v a l).1[i] =
      (bankTick k s[i] v (rest k a) (l && i == (top3 k a).toNat)).1 := by
  simp [bankTick]

/-- The output of a bank tick: the addressed child's output of this tick (R85). -/
theorem bankTick_out (k : Nat) (s : Bank (k + 1)) (v : Word) (a : BitVec (3 * (k + 1))) (l : Bit) :
    (bankTick (k + 1) s v a l).2 =
      (bankTick k (s[(top3 k a).toNat]'(top3 k a).isLt) v (rest k a) l).2 := by
  simp [bankTick]

/-- The contents of a bank at an address inside it are its child's (R40). -/
theorem Bank.contents_succ (k : Nat) (s : Bank (k + 1)) (x : Nat) (h : x / 8 ^ k < 8) :
    Bank.contents (k + 1) s x = Bank.contents k s[x / 8 ^ k] (x % 8 ^ k) := by
  simp [Bank.contents, h]

/-- Outside a bank there is no word (R32). -/
theorem Bank.contents_none (k : Nat) (s : Bank (k + 1)) (x : Nat) (h : ¬ x / 8 ^ k < 8) :
    Bank.contents (k + 1) s x = none := by
  simp [Bank.contents, h]

/-- The contents of RAM16K at an address inside it are its child's (R40). -/
theorem Ram16k.contents_of_lt (s : Ram16k) (x : Nat) (h : x / 4096 < 4) :
    s.contents x = Bank.contents 4 s.child[x / 4096] (x % 4096) := by
  simp [Ram16k.contents, h]

theorem Ram16k.contents_none (s : Ram16k) (x : Nat) (h : ¬ x / 4096 < 4) : s.contents x = none := by
  simp [Ram16k.contents, h]

/-! All levels. -/

/-- R41, the output half: a tick returns the input if it writes, and else the word at the address. -/
theorem bankTick_out_eq (k : Nat) (s : Bank k) (v : Word) (a : BitVec (3 * k)) (l : Bit) :
    some (bankTick k s v a l).2 = if l then some v else Bank.contents k s a.toNat := by
  induction k with
  | zero =>
    have ha : a.toNat = 0 := by have := address_lt 0 a; omega
    cases l <;> simp [bankTick, Bank.contents, ha]
  | succ k ih =>
    have h : a.toNat / 8 ^ k < 8 := by rw [← top3_toNat]; exact (top3 k a).isLt
    rw [bankTick_out, ih, Bank.contents_succ k s _ h, rest_toNat]
    simp only [top3_toNat]

/-- R41, the contents half: a write changes the word at the address and no other, a read none. -/
theorem bankTick_contents (k : Nat) (s : Bank k) (v : Word) (a : BitVec (3 * k)) (l : Bit) (x : Nat) :
    Bank.contents k (bankTick k s v a l).1 x =
      if l ∧ x = a.toNat then some v else Bank.contents k s x := by
  induction k generalizing x l with
  | zero =>
    have ha : a.toNat = 0 := by have := address_lt 0 a; omega
    by_cases hx : x = 0 <;> cases l <;> simp [bankTick, Bank.contents, ha, hx]
  | succ k ih =>
    by_cases h : x / 8 ^ k < 8
    · rw [Bank.contents_succ k _ _ h, Bank.contents_succ k _ _ h, bankTick_child, ih, top3_toNat,
        rest_toNat]
      simp only [Bool.and_eq_true, beq_iff_eq, and_assoc, ← eq_iff_div_mod]
    · have hx : x ≠ a.toNat := by
        rintro rfl
        exact h (by rw [← top3_toNat]; exact (top3 k a).isLt)
      rw [Bank.contents_none k _ _ h, Bank.contents_none k _ _ h]
      simp [hx]

/-- Any bank tick leaves every cell complementary, whatever the cells were (R29). -/
theorem bankTick_complementary (k : Nat) (s : Bank k) (v : Word) (a : BitVec (3 * k)) (l : Bit) :
    Bank.Complementary k (bankTick k s v a l).1 := by
  induction k generalizing l with
  | zero => exact reg16Tick_complementary _ _ _
  | succ k ih =>
    intro i
    rw [Fin.getElem_fin, bankTick_child]
    exact ih _ _ _

/-- RAM16K's output (R88, R41). -/
theorem ram16kTick_out_eq (s : Ram16k) (v : Word) (a : BitVec 14) (l : Bit) :
    some (ram16kTick s v a l).2 = if l then some v else s.contents a.toNat := by
  have h : a.toNat / 4096 < 4 := by have := a.isLt; omega
  rw [Ram16k.contents_of_lt s _ h, ← rest12_toNat]
  simp only [ram16kTick, mux4x16_ofFn, demux4_getElem, Fin.getElem_fin, beq_self_eq_true,
    Bool.and_true, ← top2_toNat]
  exact bankTick_out_eq 4 _ v (rest12 a) l

/-- RAM16K's contents (R88, R41). -/
theorem ram16kTick_contents (s : Ram16k) (v : Word) (a : BitVec 14) (l : Bit) (x : Nat) :
    (ram16kTick s v a l).1.contents x = if l ∧ x = a.toNat then some v else s.contents x := by
  by_cases h : x / 4096 < 4
  · rw [Ram16k.contents_of_lt _ _ h, Ram16k.contents_of_lt _ _ h]
    have hr : BitVec.toNat (w := 3 * 4) (rest12 a) = a.toNat % 4096 := rest12_toNat a
    simp only [ram16kTick, Vector.getElem_ofFn, demux4_getElem, Fin.getElem_fin, top2_toNat]
    rw [bankTick_contents 4 _ v (rest12 a) (l && x / 4096 == a.toNat / 4096) (x % 4096), hr]
    simp only [Bool.and_eq_true, beq_iff_eq, and_assoc, ← eq_iff_div_mod]
  · have hx : x ≠ a.toNat := by have := a.isLt; omega
    rw [Ram16k.contents_none _ _ h, Ram16k.contents_none _ _ h]
    simp [hx]

/-- A RAM16K tick leaves every cell complementary (R29). -/
theorem ram16kTick_complementary (s : Ram16k) (v : Word) (a : BitVec 14) (l : Bit) (i : Fin 4) :
    Bank.Complementary 4 (ram16kTick s v a l).1.child[i] := by
  simp only [ram16kTick, Fin.getElem_fin, Vector.getElem_ofFn]
  exact bankTick_complementary 4 _ v (rest12 a) _

/-- The words inside a bank all exist (R32 "no address is out of range"). -/
theorem Bank.contents_isSome (k : Nat) (s : Bank k) (x : Nat) (h : x < 8 ^ k) :
    (Bank.contents k s x).isSome := by
  induction k generalizing x with
  | zero => have : x = 0 := by omega
            simp [Bank.contents, this]
  | succ k ih =>
    have hx : x / 8 ^ k < 8 := Nat.div_lt_of_lt_mul (by rwa [← Nat.pow_succ])
    rw [Bank.contents_succ k s x hx]
    exact ih _ _ (Nat.mod_lt _ (Nat.pow_pos (by decide)))

/-- Construction under `INIT_POLICY = ZERO` leaves every cell complementary (R29, R31). -/
theorem Bank.construct_complementary (k base : Nat) :
    Bank.Complementary k (Bank.construct .zero k base) := by
  induction k generalizing base with
  | zero => exact Reg16.construct_complementary base
  | succ k ih =>
    intro i
    have := ih (base + i.val * (16 * 8 ^ k))
    simpa [Bank.construct] using this

/-- The invariant holds of any machine constructed under `INIT_POLICY = ZERO` with no top unit: what
the witnesses of the tests use. -/
theorem State.construct_none_complementary :
    (State.construct .zero .none).CellsComplementary where
  bit := rfl
  reg16 := Reg16.construct_complementary _
  ram8 := Bank.construct_complementary 1 _
  ram64 := Bank.construct_complementary 2 _
  ram512 := Bank.construct_complementary 3 _
  ram4k := Bank.construct_complementary 4 _
  top := trivial

end Sys2Proof.Machine
end

