-- ==== Sys2Proof/Laws/Ticks.lean ====
section
/-! SUPPORT. The shared ticks of the instruction families on ports that fit: each answers the next state
its unit's tick gives. -/
namespace Sys2Proof.Machine

variable (s : State)

@[simp] theorem tickGff_ofBit (d e : Bit) :
    tickGff (Port.ofBit d) e s = .next (s.putGff (gatedFlipFlop d e s.gff)) := by
  simp [tickGff]

@[simp] theorem tickBit_ofBit (i l : Bit) :
    tickBit (Port.ofBit i) l s = .next (s.putBit (bitTick s.bit i l)) := by
  simp [tickBit]

@[simp] theorem tickReg16_ofBitVec (v : Word) (l : Bit) :
    tickReg16 (Bus.ofBitVec v) l s = .next (s.putReg16 (reg16Tick s.reg16 v l)) := by
  simp [tickReg16]

@[simp] theorem tickBankPorts_ofBitVec (b : BankName) (v : Word) (a : BitVec b.addressWidth)
    (l : Bit) :
    tickBankPorts b (Bus.ofBitVec v) (Bus.ofBitVec a) l s = tickBank b v a l s := by
  simp [tickBankPorts]

@[simp] theorem tickBank_ram8 (v : Word) (a : BitVec BankName.ram8.addressWidth) (l : Bit) :
    tickBank .ram8 v a l s = .next (s.putRam8 (bankTick 1 s.ram8 v a l)) := rfl

@[simp] theorem tickBank_ram64 (v : Word) (a : BitVec BankName.ram64.addressWidth) (l : Bit) :
    tickBank .ram64 v a l s = .next (s.putRam64 (bankTick 2 s.ram64 v a l)) := rfl

@[simp] theorem tickBank_ram512 (v : Word) (a : BitVec BankName.ram512.addressWidth) (l : Bit) :
    tickBank .ram512 v a l s = .next (s.putRam512 (bankTick 3 s.ram512 v a l)) := rfl

@[simp] theorem tickBank_ram4k (v : Word) (a : BitVec BankName.ram4k.addressWidth) (l : Bit) :
    tickBank .ram4k v a l s = .next (s.putRam4k (bankTick 4 s.ram4k v a l)) := rfl

theorem tickBank_ram16k {r : Ram16k} (h : s.top = .ram16k r) (v : Word)
    (a : BitVec BankName.ram16k.addressWidth) (l : Bit) :
    tickBank .ram16k v a l s =
      .next (s.putTop (.ram16k (ram16kTick r v a l).1, (ram16kTick r v a l).2)) := by
  simp [tickBank, h]

theorem tickBank_ram32k {r : Bank 5} (h : s.top = .ram32k r) (v : Word)
    (a : BitVec BankName.ram32k.addressWidth) (l : Bit) :
    tickBank .ram32k v a l s =
      .next (s.putTop (.ram32k (bankTick 5 r v a l).1, (bankTick 5 r v a l).2)) := by
  simp [tickBank, h]

/-- A machine has RAM16K exactly when its top unit is one (R7). -/
theorem hasBank_ram16k : s.hasBank .ram16k ↔ ∃ r, s.top = .ram16k r := by
  unfold State.hasBank TopUnit.kind
  cases s.top <;> simp

/-- A machine has RAM32K exactly when its top unit is one (R7). -/
theorem hasBank_ram32k : s.hasBank .ram32k ↔ ∃ r, s.top = .ram32k r := by
  unfold State.hasBank TopUnit.kind
  cases s.top <;> simp

/-- A bank the machine does not have is refused (D23). -/
theorem tickBank_not_built {b : BankName} (h : ¬ s.hasBank b) (v : Word)
    (a : BitVec b.addressWidth) (l : Bit) :
    tickBank b v a l s = .refused (.unitNotBuilt (.bank b)) := by
  cases b with
  | ram16k =>
    rw [hasBank_ram16k] at h
    cases ht : s.top <;> simp_all [tickBank]
  | ram32k =>
    rw [hasBank_ram32k] at h
    cases ht : s.top <;> simp_all [tickBank]
  | _ => exact absurd trivial h

/-- A bank tick that answers a next state is a tick of a bank the machine has (R7, D23). -/
theorem tickBank_next {s t : State} {b : BankName} {v : Word} {a : BitVec b.addressWidth} {l : Bit}
    (h : tickBank b v a l s = .next t) : s.hasBank b := by
  by_contra hn
  rw [tickBank_not_built s hn] at h
  cases h

/-- A bank operation is its bank's tick with its load (R56). -/
theorem exec_bankOperation (b : BankName) (i a : Bus) (l : Bit) :
    exec (bankOperation b i a l) s = tickBankPorts b i a l s := by
  cases b <;> cases l <;> rfl

/-- A step with a request left decodes it and runs the operation on the state without it, or stops as
the decoder's error says. -/
theorem step_cons {r : Request} {rs : List Request} (h : s.requests = r :: rs) :
    step s = match decodeRequest r with
      | .ok i => exec i (State.deliver { s with requests := rs } r)
      | .error e => decodeStop e := by
  have hf := State.fetch_cons s r rs h
  cases hd : decodeRequest r <;> simp only [step, hf, hd]

end Sys2Proof.Machine
end

