-- ==== Sys2Proof/Laws/PerInstr.lean ====
section
/-! SUPPORT. Statements made per instruction. VectorWidth: an operation whose buses have the contract's
widths is encoded in a port vector of the one width of its unit's format (30_encoding.md R52, R60). -/
namespace Sys2Proof.Laws.VectorWidth

/-- The port vector of an operation with buses of the right widths has its format's width. -/
def Statement (i : Instr) : Prop := i.widthsOk = true → (encode i).length = i.unit.formatWidth

theorem latchHold : Statement .latchHold := fun _ => rfl

theorem latchReset : Statement .latchReset := fun _ => rfl

theorem latchSet : Statement .latchSet := fun _ => rfl

theorem latchBoth : Statement .latchBoth := fun _ => rfl

theorem gffHold (d : Port) : Statement (.gffHold d) := fun _ => rfl

theorem gffCommit (d : Port) : Statement (.gffCommit d) := fun _ => rfl

theorem bitHold (input : Port) : Statement (.bitHold input) := fun _ => rfl

theorem bitLoad (input : Port) : Statement (.bitLoad input) := fun _ => rfl

theorem reg16Hold (input : Bus) : Statement (.reg16Hold input) := by
  intro h
  simp [Instr.widthsOk] at h
  simp [encode, Instr.unit, UnitName.formatWidth, h]

theorem reg16Load (input : Bus) : Statement (.reg16Load input) := by
  intro h
  simp [Instr.widthsOk] at h
  simp [encode, Instr.unit, UnitName.formatWidth, h]

theorem ram8Read (input : Bus) (address : Bus) : Statement (.ram8Read input address) := by
  intro h
  simp [Instr.widthsOk, BankName.widthsOk, BankName.addressWidth] at h
  simp [encode, Instr.unit, UnitName.formatWidth, BankName.addressWidth, h]

theorem ram8Write (input : Bus) (address : Bus) : Statement (.ram8Write input address) := by
  intro h
  simp [Instr.widthsOk, BankName.widthsOk, BankName.addressWidth] at h
  simp [encode, Instr.unit, UnitName.formatWidth, BankName.addressWidth, h]

theorem ram64Read (input : Bus) (address : Bus) : Statement (.ram64Read input address) := by
  intro h
  simp [Instr.widthsOk, BankName.widthsOk, BankName.addressWidth] at h
  simp [encode, Instr.unit, UnitName.formatWidth, BankName.addressWidth, h]

theorem ram64Write (input : Bus) (address : Bus) : Statement (.ram64Write input address) := by
  intro h
  simp [Instr.widthsOk, BankName.widthsOk, BankName.addressWidth] at h
  simp [encode, Instr.unit, UnitName.formatWidth, BankName.addressWidth, h]

theorem ram512Read (input : Bus) (address : Bus) : Statement (.ram512Read input address) := by
  intro h
  simp [Instr.widthsOk, BankName.widthsOk, BankName.addressWidth] at h
  simp [encode, Instr.unit, UnitName.formatWidth, BankName.addressWidth, h]

theorem ram512Write (input : Bus) (address : Bus) : Statement (.ram512Write input address) := by
  intro h
  simp [Instr.widthsOk, BankName.widthsOk, BankName.addressWidth] at h
  simp [encode, Instr.unit, UnitName.formatWidth, BankName.addressWidth, h]

theorem ram4kRead (input : Bus) (address : Bus) : Statement (.ram4kRead input address) := by
  intro h
  simp [Instr.widthsOk, BankName.widthsOk, BankName.addressWidth] at h
  simp [encode, Instr.unit, UnitName.formatWidth, BankName.addressWidth, h]

theorem ram4kWrite (input : Bus) (address : Bus) : Statement (.ram4kWrite input address) := by
  intro h
  simp [Instr.widthsOk, BankName.widthsOk, BankName.addressWidth] at h
  simp [encode, Instr.unit, UnitName.formatWidth, BankName.addressWidth, h]

theorem ram16kRead (input : Bus) (address : Bus) : Statement (.ram16kRead input address) := by
  intro h
  simp [Instr.widthsOk, BankName.widthsOk, BankName.addressWidth] at h
  simp [encode, Instr.unit, UnitName.formatWidth, BankName.addressWidth, h]

theorem ram16kWrite (input : Bus) (address : Bus) : Statement (.ram16kWrite input address) := by
  intro h
  simp [Instr.widthsOk, BankName.widthsOk, BankName.addressWidth] at h
  simp [encode, Instr.unit, UnitName.formatWidth, BankName.addressWidth, h]

theorem ram32kRead (input : Bus) (address : Bus) : Statement (.ram32kRead input address) := by
  intro h
  simp [Instr.widthsOk, BankName.widthsOk, BankName.addressWidth] at h
  simp [encode, Instr.unit, UnitName.formatWidth, BankName.addressWidth, h]

theorem ram32kWrite (input : Bus) (address : Bus) : Statement (.ram32kWrite input address) := by
  intro h
  simp [Instr.widthsOk, BankName.widthsOk, BankName.addressWidth] at h
  simp [encode, Instr.unit, UnitName.formatWidth, BankName.addressWidth, h]

theorem mux2 (a : Port) (b : Port) (select : Port) : Statement (.mux2 a b select) := fun _ => rfl

theorem demux8 (input : Port) (selector : Bus) : Statement (.demux8 input selector) := by
  intro h
  simp [Instr.widthsOk] at h
  simp [encode, Instr.unit, UnitName.formatWidth, h]

/-- Words laid end to end take 16 positions each. -/
theorem length_flatten_words (o : List Bus) (h : ∀ b ∈ o, b.length = 16) :
    o.flatten.length = o.length * 16 := by
  induction o with
  | nil => rfl
  | cons b o ih =>
    simp only [List.flatten_cons, List.length_append, List.length_cons]
    rw [h b List.mem_cons_self, ih fun c hc => h c (List.mem_cons_of_mem _ hc)]
    ring

theorem mux8x16 (options : List Bus) (selector : Bus) : Statement (.mux8x16 options selector) := by
  intro h
  simp [Instr.widthsOk, muxWidthsOk] at h
  simp [encode, Instr.unit, UnitName.formatWidth, length_flatten_words options h.1.2, h]

theorem demux4 (input : Port) (selector : Bus) : Statement (.demux4 input selector) := by
  intro h
  simp [Instr.widthsOk] at h
  simp [encode, Instr.unit, UnitName.formatWidth, h]

theorem mux4x16 (options : List Bus) (selector : Bus) : Statement (.mux4x16 options selector) := by
  intro h
  simp [Instr.widthsOk, muxWidthsOk] at h
  simp [encode, Instr.unit, UnitName.formatWidth, length_flatten_words options h.1.2, h]

end Sys2Proof.Laws.VectorWidth
end

