-- ==== Sys2Proof/Certificates/Slice0/Obligations.lean ====
section
/-! DEFINITION. The statements for the provers. Each docstring says what is stated; the rules it rests
on are in OBLIGATIONS.json. A port is written `Port.ofBit b` and a bus `Bus.ofBitVec v`: every port that
is a Bit, and every bus of Bits of its width, is one (`exists_ofBit`, `exists_ofBitVec` in
Laws/Operands.lean), so no form is shut out. -/
open Sys2Proof Sys2Proof.Machine

/-- For every state, the four vectors 00, 01, 10, 11 decode to LATCH.HOLD, LATCH.RESET, LATCH.SET and LATCH.BOTH, and each answers the next state that differs only in the latch, which becomes the row of the truth table (HOLD keeps any previous state, (0,0) and (1,1) too; BOTH gives exactly (0,0)), and in the value returned, which is the new LatchState. -/
def Obligations.LatchOperations : Prop :=
  (∀ p : LatchState, latch false false p = p ∧ latch false true p = ⟨false, true⟩ ∧
    latch true false p = ⟨true, false⟩ ∧ latch true true p = ⟨false, false⟩) ∧
  ∀ s : State,
    (decode .latch [0, 0] = .ok .latchHold ∧
      exec .latchHold s = .next { s with output := some (.latchState s.latch) }) ∧
    (decode .latch [0, 1] = .ok .latchReset ∧
      exec .latchReset s =
        .next { s with latch := ⟨false, true⟩, output := some (.latchState ⟨false, true⟩) }) ∧
    (decode .latch [1, 0] = .ok .latchSet ∧
      exec .latchSet s =
        .next { s with latch := ⟨true, false⟩, output := some (.latchState ⟨true, false⟩) }) ∧
    (decode .latch [1, 1] = .ok .latchBoth ∧
      exec .latchBoth s =
        .next { s with latch := ⟨false, false⟩, output := some (.latchState ⟨false, false⟩) })

/-- For every state and data Bit d, the vectors d0 and d1 decode to GFF.HOLD d and GFF.COMMIT d; HOLD answers the next state in which only the returned value changes (the LatchState kept as it is, an invalid one too), COMMIT the one in which the LatchState kept for GFF is (d, NOT d). The only caller of GFF in the core, the BIT tick, calls it with enable 1. -/
def Obligations.GffOperations : Prop :=
  (∀ (s : State) (d : Bit),
    (decode .gff [Port.ofBit d, 0] = .ok (.gffHold (Port.ofBit d)) ∧
      exec (.gffHold (Port.ofBit d)) s = .next { s with output := some (.latchState s.gff) }) ∧
    (decode .gff [Port.ofBit d, 1] = .ok (.gffCommit (Port.ofBit d)) ∧
      exec (.gffCommit (Port.ofBit d)) s =
        .next { s with gff := ⟨d, !d⟩, output := some (.latchState ⟨d, !d⟩) })) ∧
  (∀ (d : Bit) (p : LatchState), gatedFlipFlop d true p = latch d (!d) p) ∧
  ∀ (r : BitReg) (i l : Bit),
    (bitTick r i l).1.cell = gatedFlipFlop (mux2 r.cell.q i l) true r.cell

/-- For all data, enable and previous state: with enable 1 the flip-flop is latch(set = data, reset = NOT data, previous), with enable 0 it returns previous, and in both cases it is latch(d AND e, (NOT d) AND e, previous). -/
def Obligations.GffAsGatedLatch : Prop :=
  ∀ (d e : Bit) (p : LatchState),
    gatedFlipFlop d true p = latch d (!d) p ∧ gatedFlipFlop d false p = p ∧
      gatedFlipFlop d e p = latch (d && e) (!d && e) p

/-- For every state and input Bit i, the vectors i0 and i1 decode to BIT.HOLD and BIT.LOAD; HOLD rewrites the cell as (q, NOT q) and returns q, whatever the input; LOAD stores (i, NOT i) and returns i. Nothing else of the state changes. -/
def Obligations.BitOperations : Prop :=
  ∀ (s : State) (i : Bit),
    (decode .bit [Port.ofBit i, 0] = .ok (.bitHold (Port.ofBit i)) ∧
      exec (.bitHold (Port.ofBit i)) s =
        .next { s with
          bit := ⟨⟨s.bit.cell.q, !s.bit.cell.q⟩⟩, output := some (.bit s.bit.cell.q) }) ∧
    (decode .bit [Port.ofBit i, 1] = .ok (.bitLoad (Port.ofBit i)) ∧
      exec (.bitLoad (Port.ofBit i)) s =
        .next { s with bit := ⟨⟨i, !i⟩⟩, output := some (.bit i) })

/-- The BIT tick commits the multiplexed value with enable 1 (hold by feedback). Against the structure gatedFlipFlop(input, load, cell), for every state and input the output and the new q are the same, and the new nq differs only if the cell was non-complementary. -/
def Obligations.HoldByFeedback : Prop :=
  ∀ (r : BitReg) (i l : Bit),
    bitTick r i l = (⟨gatedFlipFlop (mux2 r.cell.q i l) true r.cell⟩, mux2 r.cell.q i l) ∧
    (bitTick r i l).2 = (gatedFlipFlop i l r.cell).q ∧
    (bitTick r i l).1.cell.q = (gatedFlipFlop i l r.cell).q ∧
    ((bitTick r i l).1.cell.nq ≠ (gatedFlipFlop i l r.cell).nq → ¬ Complementary r.cell)

/-- For every state and word v, v followed by load 0 or 1 decodes to REG16.HOLD or REG16.LOAD; HOLD rewrites every lane as (q, NOT q) and returns the value held, whatever the input; LOAD stores (v[j], NOT v[j]) in every lane j and returns v. Nothing else changes. A data bus of Bits of another width is Fatal(BUS_WIDTH). -/
def Obligations.Reg16Operations : Prop :=
  (∀ (s : State) (v : Word),
    (decode .reg16 (Bus.ofBitVec v ++ [0]) = .ok (.reg16Hold (Bus.ofBitVec v)) ∧
      exec (.reg16Hold (Bus.ofBitVec v)) s =
        .next { s with
          reg16 := ⟨Vector.ofFn fun j => ⟨⟨s.reg16.bit[j].cell.q, !s.reg16.bit[j].cell.q⟩⟩⟩
          output := some (.word s.reg16.value) }) ∧
    (decode .reg16 (Bus.ofBitVec v ++ [1]) = .ok (.reg16Load (Bus.ofBitVec v)) ∧
      exec (.reg16Load (Bus.ofBitVec v)) s =
        .next { s with
          reg16 := ⟨Vector.ofFn fun j => ⟨⟨v.getMsbD j.val, !v.getMsbD j.val⟩⟩⟩
          output := some (.word v) })) ∧
  ∀ (s : State) (b : Bus), b.allBits = true → b.length ≠ 16 →
    exec (.reg16Hold b) s = .fault (.busWidth .reg16 .input b.length) ∧
      exec (.reg16Load b) s = .fault (.busWidth .reg16 .input b.length)

/-- If two registers agree in lane j and two inputs agree in bit j, then after ticks with the same load they agree in lane j and the outputs agree in bit j, whatever the other lanes and bits are; and one load serves all lanes. -/
def Obligations.Reg16LanesIndependent : Prop :=
  ∀ (r r' : Reg16) (v v' : Word) (l : Bit) (j : Nat) (h : j < 16),
    r.bit[j] = r'.bit[j] → v.getMsbD j = v'.getMsbD j →
      (reg16Tick r v l).1.bit[j] = (reg16Tick r' v' l).1.bit[j] ∧
        (reg16Tick r v l).2.getMsbD j = (reg16Tick r' v' l).2.getMsbD j ∧
        (reg16Tick r v l).1.bit[j] = (bitTick r.bit[j] (v.getMsbD j) l).1

/-- For every state, word v and 3-bit address a: v, a and load 0 or 1 decode to RAM8.READ or RAM8.WRITE. READ answers a next state: every one of the 8 REG16 children is ticked with load 0, the word at a is returned, every word reads as before, nothing outside the bank changes. WRITE answers a next state: the addressed child is ticked with load 1 and every other with load 0, v is returned, the word at a is v, every other word reads as before, nothing outside the bank changes. With a data or address bus of Bits of a wrong width both are Fatal(BUS_WIDTH). -/
def Obligations.Ram8Operations : Prop :=
  (∀ (s : State) (v : Word) (a : BitVec 3),
    decode (.bank .ram8) (Bus.ofBitVec v ++ Bus.ofBitVec a ++ [0]) =
        .ok (.ram8Read (Bus.ofBitVec v) (Bus.ofBitVec a)) ∧
    decode (.bank .ram8) (Bus.ofBitVec v ++ Bus.ofBitVec a ++ [1]) =
        .ok (.ram8Write (Bus.ofBitVec v) (Bus.ofBitVec a)) ∧
    (∃ t w, exec (.ram8Read (Bus.ofBitVec v) (Bus.ofBitVec a)) s = .next t ∧
      (∀ i : Fin 8, t.ram8[i] = (reg16Tick s.ram8[i] v false).1) ∧
      s.memRead .ram8 a.toNat = some w ∧
      t = { s with ram8 := t.ram8, output := some (.word w) } ∧
      ∀ x, t.memRead .ram8 x = s.memRead .ram8 x) ∧
    (∃ t, exec (.ram8Write (Bus.ofBitVec v) (Bus.ofBitVec a)) s = .next t ∧
      (∀ i : Fin 8, t.ram8[i] = (reg16Tick s.ram8[i] v (i.val == a.toNat)).1) ∧
      t = { s with ram8 := t.ram8, output := some (.word v) } ∧
      ∀ x, t.memRead .ram8 x = if x = a.toNat then some v else s.memRead .ram8 x)) ∧
  ∀ (s : State) (input address : Bus), input.allBits = true → address.allBits = true →
    (input.length ≠ 16 ∨ address.length ≠ 3) →
      (∃ p n, exec (.ram8Read input address) s = .fault (.busWidth (.bank .ram8) p n)) ∧
        ∃ p n, exec (.ram8Write input address) s = .fault (.busWidth (.bank .ram8) p n)

/-- For every state, word v and 6-bit address a: v, a and load 0 or 1 decode to RAM64.READ or RAM64.WRITE. READ answers a next state: every one of the 8 RAM8 children is ticked with load 0, the word at a is returned, every word reads as before, nothing outside the bank changes. WRITE answers a next state: the addressed child is ticked with load 1 and every other with load 0, v is returned, the word at a is v, every other word reads as before, nothing outside the bank changes. With a data or address bus of Bits of a wrong width both are Fatal(BUS_WIDTH). -/
def Obligations.Ram64Operations : Prop :=
  (∀ (s : State) (v : Word) (a : BitVec 6),
    decode (.bank .ram64) (Bus.ofBitVec v ++ Bus.ofBitVec a ++ [0]) =
        .ok (.ram64Read (Bus.ofBitVec v) (Bus.ofBitVec a)) ∧
    decode (.bank .ram64) (Bus.ofBitVec v ++ Bus.ofBitVec a ++ [1]) =
        .ok (.ram64Write (Bus.ofBitVec v) (Bus.ofBitVec a)) ∧
    (∃ t w, exec (.ram64Read (Bus.ofBitVec v) (Bus.ofBitVec a)) s = .next t ∧
      (∀ i : Fin 8, t.ram64[i] =
        (bankTick 1 s.ram64[i] v (rest 1 a) false).1) ∧
      s.memRead .ram64 a.toNat = some w ∧
      t = { s with ram64 := t.ram64, output := some (.word w) } ∧
      ∀ x, t.memRead .ram64 x = s.memRead .ram64 x) ∧
    (∃ t, exec (.ram64Write (Bus.ofBitVec v) (Bus.ofBitVec a)) s = .next t ∧
      (∀ i : Fin 8, t.ram64[i] =
        (bankTick 1 s.ram64[i] v (rest 1 a) (i.val == (top3 1 a).toNat)).1) ∧
      t = { s with ram64 := t.ram64, output := some (.word v) } ∧
      ∀ x, t.memRead .ram64 x = if x = a.toNat then some v else s.memRead .ram64 x)) ∧
  ∀ (s : State) (input address : Bus), input.allBits = true → address.allBits = true →
    (input.length ≠ 16 ∨ address.length ≠ 6) →
      (∃ p n, exec (.ram64Read input address) s = .fault (.busWidth (.bank .ram64) p n)) ∧
        ∃ p n, exec (.ram64Write input address) s = .fault (.busWidth (.bank .ram64) p n)

/-- For every state, word v and 9-bit address a: v, a and load 0 or 1 decode to RAM512.READ or RAM512.WRITE. READ answers a next state: every one of the 8 RAM64 children is ticked with load 0, the word at a is returned, every word reads as before, nothing outside the bank changes. WRITE answers a next state: the addressed child is ticked with load 1 and every other with load 0, v is returned, the word at a is v, every other word reads as before, nothing outside the bank changes. With a data or address bus of Bits of a wrong width both are Fatal(BUS_WIDTH). -/
def Obligations.Ram512Operations : Prop :=
  (∀ (s : State) (v : Word) (a : BitVec 9),
    decode (.bank .ram512) (Bus.ofBitVec v ++ Bus.ofBitVec a ++ [0]) =
        .ok (.ram512Read (Bus.ofBitVec v) (Bus.ofBitVec a)) ∧
    decode (.bank .ram512) (Bus.ofBitVec v ++ Bus.ofBitVec a ++ [1]) =
        .ok (.ram512Write (Bus.ofBitVec v) (Bus.ofBitVec a)) ∧
    (∃ t w, exec (.ram512Read (Bus.ofBitVec v) (Bus.ofBitVec a)) s = .next t ∧
      (∀ i : Fin 8, t.ram512[i] =
        (bankTick 2 s.ram512[i] v (rest 2 a) false).1) ∧
      s.memRead .ram512 a.toNat = some w ∧
      t = { s with ram512 := t.ram512, output := some (.word w) } ∧
      ∀ x, t.memRead .ram512 x = s.memRead .ram512 x) ∧
    (∃ t, exec (.ram512Write (Bus.ofBitVec v) (Bus.ofBitVec a)) s = .next t ∧
      (∀ i : Fin 8, t.ram512[i] =
        (bankTick 2 s.ram512[i] v (rest 2 a) (i.val == (top3 2 a).toNat)).1) ∧
      t = { s with ram512 := t.ram512, output := some (.word v) } ∧
      ∀ x, t.memRead .ram512 x = if x = a.toNat then some v else s.memRead .ram512 x)) ∧
  ∀ (s : State) (input address : Bus), input.allBits = true → address.allBits = true →
    (input.length ≠ 16 ∨ address.length ≠ 9) →
      (∃ p n, exec (.ram512Read input address) s = .fault (.busWidth (.bank .ram512) p n)) ∧
        ∃ p n, exec (.ram512Write input address) s = .fault (.busWidth (.bank .ram512) p n)

/-- For every state, word v and 12-bit address a: v, a and load 0 or 1 decode to RAM4K.READ or RAM4K.WRITE. READ answers a next state: every one of the 8 RAM512 children is ticked with load 0, the word at a is returned, every word reads as before, nothing outside the bank changes. WRITE answers a next state: the addressed child is ticked with load 1 and every other with load 0, v is returned, the word at a is v, every other word reads as before, nothing outside the bank changes. With a data or address bus of Bits of a wrong width both are Fatal(BUS_WIDTH). -/
def Obligations.Ram4kOperations : Prop :=
  (∀ (s : State) (v : Word) (a : BitVec 12),
    decode (.bank .ram4k) (Bus.ofBitVec v ++ Bus.ofBitVec a ++ [0]) =
        .ok (.ram4kRead (Bus.ofBitVec v) (Bus.ofBitVec a)) ∧
    decode (.bank .ram4k) (Bus.ofBitVec v ++ Bus.ofBitVec a ++ [1]) =
        .ok (.ram4kWrite (Bus.ofBitVec v) (Bus.ofBitVec a)) ∧
    (∃ t w, exec (.ram4kRead (Bus.ofBitVec v) (Bus.ofBitVec a)) s = .next t ∧
      (∀ i : Fin 8, t.ram4k[i] =
        (bankTick 3 s.ram4k[i] v (rest 3 a) false).1) ∧
      s.memRead .ram4k a.toNat = some w ∧
      t = { s with ram4k := t.ram4k, output := some (.word w) } ∧
      ∀ x, t.memRead .ram4k x = s.memRead .ram4k x) ∧
    (∃ t, exec (.ram4kWrite (Bus.ofBitVec v) (Bus.ofBitVec a)) s = .next t ∧
      (∀ i : Fin 8, t.ram4k[i] =
        (bankTick 3 s.ram4k[i] v (rest 3 a) (i.val == (top3 3 a).toNat)).1) ∧
      t = { s with ram4k := t.ram4k, output := some (.word v) } ∧
      ∀ x, t.memRead .ram4k x = if x = a.toNat then some v else s.memRead .ram4k x)) ∧
  ∀ (s : State) (input address : Bus), input.allBits = true → address.allBits = true →
    (input.length ≠ 16 ∨ address.length ≠ 12) →
      (∃ p n, exec (.ram4kRead input address) s = .fault (.busWidth (.bank .ram4k) p n)) ∧
        ∃ p n, exec (.ram4kWrite input address) s = .fault (.busWidth (.bank .ram4k) p n)

/-- For every machine whose top unit is a RAM16K: for every word v and 14-bit address a: v, a and load 0 or 1 decode to RAM16K.READ or RAM16K.WRITE. READ ticks every one of the 4 RAM4K children with load 0, returns the word at a and leaves every word; WRITE ticks the addressed child with load 1 and the others with load 0, returns v, and the word at a is v and every other reads as before. Nothing outside the bank changes. With a data or address bus of Bits of a wrong width both are Fatal(BUS_WIDTH) on such a machine. -/
def Obligations.Ram16kOperations : Prop :=
  (∀ (s : State) (v : Word) (a : BitVec 14) (r : Ram16k) (_ : s.top = .ram16k r),
    decode (.bank .ram16k) (Bus.ofBitVec v ++ Bus.ofBitVec a ++ [0]) =
        .ok (.ram16kRead (Bus.ofBitVec v) (Bus.ofBitVec a)) ∧
    decode (.bank .ram16k) (Bus.ofBitVec v ++ Bus.ofBitVec a ++ [1]) =
        .ok (.ram16kWrite (Bus.ofBitVec v) (Bus.ofBitVec a)) ∧
    (∃ t w, exec (.ram16kRead (Bus.ofBitVec v) (Bus.ofBitVec a)) s = .next t ∧
      (∃ r', t.top = .ram16k r' ∧ ∀ i : Fin 4, r'.child[i] =
        (bankTick 4 r.child[i] v (rest12 a) false).1) ∧
      s.memRead .ram16k a.toNat = some w ∧
      t = { s with top := t.top, output := some (.word w) } ∧
      ∀ x, t.memRead .ram16k x = s.memRead .ram16k x) ∧
    (∃ t, exec (.ram16kWrite (Bus.ofBitVec v) (Bus.ofBitVec a)) s = .next t ∧
      (∃ r', t.top = .ram16k r' ∧ ∀ i : Fin 4, r'.child[i] =
        (bankTick 4 r.child[i] v (rest12 a) (i.val == (top2 a).toNat)).1) ∧
      t = { s with top := t.top, output := some (.word v) } ∧
      ∀ x, t.memRead .ram16k x = if x = a.toNat then some v else s.memRead .ram16k x)) ∧
  ∀ (s : State) (input address : Bus), s.hasBank .ram16k → input.allBits = true → address.allBits = true →
    (input.length ≠ 16 ∨ address.length ≠ 14) →
      (∃ p n, exec (.ram16kRead input address) s = .fault (.busWidth (.bank .ram16k) p n)) ∧
        ∃ p n, exec (.ram16kWrite input address) s = .fault (.busWidth (.bank .ram16k) p n)

/-- For every machine whose top unit is a RAM32K: for every word v and 15-bit address a: v, a and load 0 or 1 decode to RAM32K.READ or RAM32K.WRITE, which mean RAM4K's rules with k = 5: every one of the 8 RAM4K children is ticked, the write enabled only in the addressed one, READ returning the word at a and leaving every word, WRITE returning v and changing the word at a alone. Nothing outside the bank changes. With a data or address bus of Bits of a wrong width both are Fatal(BUS_WIDTH) on such a machine. -/
def Obligations.Ram32kOperations : Prop :=
  (∀ (s : State) (v : Word) (a : BitVec 15) (r : Bank 5) (_ : s.top = .ram32k r),
    decode (.bank .ram32k) (Bus.ofBitVec v ++ Bus.ofBitVec a ++ [0]) =
        .ok (.ram32kRead (Bus.ofBitVec v) (Bus.ofBitVec a)) ∧
    decode (.bank .ram32k) (Bus.ofBitVec v ++ Bus.ofBitVec a ++ [1]) =
        .ok (.ram32kWrite (Bus.ofBitVec v) (Bus.ofBitVec a)) ∧
    (∃ t w, exec (.ram32kRead (Bus.ofBitVec v) (Bus.ofBitVec a)) s = .next t ∧
      (∃ r' : Bank 5, t.top = .ram32k r' ∧ ∀ i : Fin 8, r'[i] =
        (bankTick 4 (Vector.get (n := 8) r i) v (rest 4 a) false).1) ∧
      s.memRead .ram32k a.toNat = some w ∧
      t = { s with top := t.top, output := some (.word w) } ∧
      ∀ x, t.memRead .ram32k x = s.memRead .ram32k x) ∧
    (∃ t, exec (.ram32kWrite (Bus.ofBitVec v) (Bus.ofBitVec a)) s = .next t ∧
      (∃ r' : Bank 5, t.top = .ram32k r' ∧ ∀ i : Fin 8, r'[i] =
        (bankTick 4 (Vector.get (n := 8) r i) v (rest 4 a) (i.val == (top3 4 a).toNat)).1) ∧
      t = { s with top := t.top, output := some (.word v) } ∧
      ∀ x, t.memRead .ram32k x = if x = a.toNat then some v else s.memRead .ram32k x)) ∧
  ∀ (s : State) (input address : Bus), s.hasBank .ram32k → input.allBits = true → address.allBits = true →
    (input.length ≠ 16 ∨ address.length ≠ 15) →
      (∃ p n, exec (.ram32kRead input address) s = .fault (.busWidth (.bank .ram32k) p n)) ∧
        ∃ p n, exec (.ram32kWrite input address) s = .fault (.busWidth (.bank .ram32k) p n)

/-- On a machine whose TOP_BANK is not RAM16K_4WAY, RAM16K.READ and RAM16K.WRITE with ports that fit are refused by name, and on one whose TOP_BANK is not RAM32K_8WAY so are RAM32K.READ and RAM32K.WRITE; with their TOP_BANK they answer a next state. -/
def Obligations.TopBankAdmits : Prop :=
  ∀ (s : State) (v : Word),
    (∀ a : BitVec 14,
      (s.top.kind ≠ .ram16k4way →
        exec (.ram16kRead (Bus.ofBitVec v) (Bus.ofBitVec a)) s =
            .refused (.unitNotBuilt (.bank .ram16k)) ∧
          exec (.ram16kWrite (Bus.ofBitVec v) (Bus.ofBitVec a)) s =
            .refused (.unitNotBuilt (.bank .ram16k))) ∧
      (s.top.kind = .ram16k4way →
        (∃ t, exec (.ram16kRead (Bus.ofBitVec v) (Bus.ofBitVec a)) s = .next t) ∧
          ∃ t, exec (.ram16kWrite (Bus.ofBitVec v) (Bus.ofBitVec a)) s = .next t)) ∧
    ∀ a : BitVec 15,
      (s.top.kind ≠ .ram32k8way →
        exec (.ram32kRead (Bus.ofBitVec v) (Bus.ofBitVec a)) s =
            .refused (.unitNotBuilt (.bank .ram32k)) ∧
          exec (.ram32kWrite (Bus.ofBitVec v) (Bus.ofBitVec a)) s =
            .refused (.unitNotBuilt (.bank .ram32k))) ∧
      (s.top.kind = .ram32k8way →
        (∃ t, exec (.ram32kRead (Bus.ofBitVec v) (Bus.ofBitVec a)) s = .next t) ∧
          ∃ t, exec (.ram32kWrite (Bus.ofBitVec v) (Bus.ofBitVec a)) s = .next t)

/-- For every state and Bits a, b, s the vector abs decodes to MUX2, which answers the next state that differs only in the value returned: b if the select is 1, else a. The BIT tick selects with it: mux2(current output, input, load). -/
def Obligations.Mux2Operation : Prop :=
  ∀ (s : State) (a b c : Bit),
    decode .mux2 [Port.ofBit a, Port.ofBit b, Port.ofBit c] =
        .ok (.mux2 (Port.ofBit a) (Port.ofBit b) (Port.ofBit c)) ∧
      exec (.mux2 (Port.ofBit a) (Port.ofBit b) (Port.ofBit c)) s =
        .next { s with output := some (.bit (if c = true then b else a)) } ∧
      (∀ i l : Bit, bitTick s.bit i l =
        (⟨gatedFlipFlop (mux2 s.bit.cell.q i l) true s.bit.cell⟩, mux2 s.bit.cell.q i l))

/-- For every state, input Bit x and selector t, the vector x t decodes to DEMUX8 (3-bit t) or DEMUX4 (2-bit t), which answers the next state that differs only in the lines returned: line i is x if i is the unsigned value of t, most significant bit first, and 0 otherwise. -/
def Obligations.DemuxOperations : Prop :=
  ∀ (s : State) (x : Bit),
    (∀ t : BitVec 3,
      decode .demux8 (Port.ofBit x :: Bus.ofBitVec t) =
          .ok (.demux8 (Port.ofBit x) (Bus.ofBitVec t)) ∧
        exec (.demux8 (Port.ofBit x) (Bus.ofBitVec t)) s =
          .next { s with
            output := some (.lines8 (Vector.ofFn fun i => if i.val = t.toNat then x else false)) }) ∧
    ∀ t : BitVec 2,
      decode .demux4 (Port.ofBit x :: Bus.ofBitVec t) =
          .ok (.demux4 (Port.ofBit x) (Bus.ofBitVec t)) ∧
        exec (.demux4 (Port.ofBit x) (Bus.ofBitVec t)) s =
          .next { s with
            output := some (.lines4 (Vector.ofFn fun i => if i.val = t.toNat then x else false)) }

/-- For every state, options and selector t, the options laid end to end followed by t decode to MUX8X16 (8 options, 3-bit t) or MUX4X16 (4 options, 2-bit t), which answers the next state that differs only in the word returned: the option at the unsigned value of t. -/
def Obligations.WordMuxOperations : Prop :=
  ∀ s : State,
    (∀ (o : Vector Word 8) (t : BitVec 3),
      decode .mux8x16 ((Bus.ofWords o).flatten ++ Bus.ofBitVec t) =
          .ok (.mux8x16 (Bus.ofWords o) (Bus.ofBitVec t)) ∧
        exec (.mux8x16 (Bus.ofWords o) (Bus.ofBitVec t)) s =
          .next { s with output := some (.word (o[t.toNat]'t.isLt)) }) ∧
    ∀ (o : Vector Word 4) (t : BitVec 2),
      decode .mux4x16 ((Bus.ofWords o).flatten ++ Bus.ofBitVec t) =
          .ok (.mux4x16 (Bus.ofWords o) (Bus.ofBitVec t)) ∧
        exec (.mux4x16 (Bus.ofWords o) (Bus.ofBitVec t)) s =
          .next { s with output := some (.word (o[t.toNat]'t.isLt)) }

/-- For every state and buses of Bits: REG16 with a data bus not 16 wide is Fatal(BUS_WIDTH), recording the width found; a READ or WRITE of a bank the machine has, with just the data bus or just the address bus of a wrong width is Fatal(BUS_WIDTH) recording that port and the width found, and with both wrong it is a Fatal(BUS_WIDTH); nothing is truncated, padded or ignored. -/
def Obligations.WrongWidthsAreFatal : Prop :=
  (∀ (s : State) (b : Bus), b.allBits = true → b.length ≠ 16 →
    exec (.reg16Hold b) s = .fault (.busWidth .reg16 .input b.length) ∧
      exec (.reg16Load b) s = .fault (.busWidth .reg16 .input b.length)) ∧
  ∀ (s : State) (b : BankName) (input address : Bus) (load : Bit), s.hasBank b →
    input.allBits = true → address.allBits = true →
    (input.length ≠ 16 → address.length = b.addressWidth →
      exec (bankOperation b input address load) s =
        .fault (.busWidth (.bank b) .input input.length)) ∧
    (input.length = 16 → address.length ≠ b.addressWidth →
      exec (bankOperation b input address load) s =
        .fault (.busWidth (.bank b) .address address.length)) ∧
    (input.length ≠ 16 → address.length ≠ b.addressWidth →
      ∃ p n, exec (bankOperation b input address load) s = .fault (.busWidth (.bank b) p n))

/-- MODEL'S CHOICE (log entry 7, from the driver's duty of R125 to pass ports of the contract's widths): for every state and ports of Bits, DEMUX8 and DEMUX4 with a selector of a wrong width, and MUX8X16 and MUX4X16 whose number of options, option widths or selector width are wrong, are Fatal(BUS_WIDTH). -/
def Obligations.ContractWidthsAreFatal : Prop :=
  (∀ (s : State) (x : Bit) (t : Bus), t.allBits = true → t.length ≠ 3 →
    exec (.demux8 (Port.ofBit x) t) s = .fault (.busWidth .demux8 .selector t.length)) ∧
  (∀ (s : State) (x : Bit) (t : Bus), t.allBits = true → t.length ≠ 2 →
    exec (.demux4 (Port.ofBit x) t) s = .fault (.busWidth .demux4 .selector t.length)) ∧
  (∀ (s : State) (o : List Bus) (t : Bus), o.all Bus.allBits = true → t.allBits = true →
    muxWidthsOk 8 3 o t = false →
      ∃ p n, exec (.mux8x16 o t) s = .fault (.busWidth .mux8x16 p n)) ∧
  ∀ (s : State) (o : List Bus) (t : Bus), o.all Bus.allBits = true → t.allBits = true →
    muxWidthsOk 4 2 o t = false →
      ∃ p n, exec (.mux4x16 o t) s = .fault (.busWidth .mux4x16 p n)

/-- An operation, and a step on a request, with a value that is no Bit on any port never answers a next state, on any machine; where the widths fit and the machine has the unit, it is refused, naming the unit and a value of 2 or more. For every call, and every port vector of its unit's width, with a value of 2 or more on a control port (set or reset, enable, load), decodeRequest selects no operation but gives the nonBit error of that unit with a value of 2 or more: the value is not coerced. (Where a width is wrong too, or the bank is not built, WHICH stop it is is the model's choice: statement O51.) -/
def Obligations.NonBitsAreRefused : Prop :=
  (∀ (i : Instr) (s : State), i.bitsOnly = false →
    (∀ t, exec i s ≠ .next t) ∧
    (i.widthsOk = true → s.hasUnit i.unit →
      ∃ p x, exec i s = .refused (.nonBit i.unit p x) ∧ 2 ≤ x)) ∧
  (∀ c : Call, c.controls.all Port.isBit = false →
    ∃ p x, decodeRequest (.call c) = .error (.nonBit c.unit p x) ∧ 2 ≤ x) ∧
  (∀ (u : UnitName) (ports : Bus), ports.length = u.formatWidth →
    (u.controls ports).all Port.isBit = false →
    ∃ p x, decodeRequest (.vector u ports) = .error (.nonBit u p x) ∧ 2 ≤ x) ∧
  ∀ (s : State) (r : Request) (rs : List Request), s.requests = r :: rs → r.bitsOnly = false →
    (∀ t, step s ≠ .next t) ∧
    (r.widthsOk = true → s.hasUnit r.unit →
      ∃ p x, step s = .refused (.nonBit r.unit p x) ∧ 2 ≤ x)

/-- For every well-formed operation, decoding its port vector as a vector of its unit gives that operation, with every operand at every value. -/
def Obligations.DecodeEncodeRoundTrip : Prop :=
  ∀ i : Instr, i.wellFormed = true → decode i.unit (encode i) = .ok i

/-- For every unit and every vector of Bits of that unit's format width, if the vector decodes to an operation, then that operation drives that unit, is well-formed, and its port vector is the vector itself: no two vectors of a format mean the same operation with the same operands. -/
def Obligations.EncodeDecodeRoundTrip : Prop :=
  ∀ (u : UnitName) (ports : Bus) (i : Instr), ports.allBits = true →
    ports.length = u.formatWidth → decode u ports = .ok i →
      i.unit = u ∧ i.wellFormed = true ∧ encode i = ports

/-- For every unit and every vector of Bits of its format's width, the vector decodes to an operation, and that operation answers a next state on every machine that has the unit; LATCH.BOTH is among them and yields (0, 0). -/
def Obligations.EveryVectorHasAMeaning : Prop :=
  (∀ (u : UnitName) (ports : Bus), ports.allBits = true → ports.length = u.formatWidth →
    ∃ i, decode u ports = .ok i ∧ ∀ s : State, s.hasUnit u → ∃ t, exec i s = .next t) ∧
  ∀ s : State, decode .latch [1, 1] = .ok .latchBoth ∧
    ∃ t, exec .latchBoth s = .next t ∧ t.latch = ⟨false, false⟩

/-- Vectors that 95_test_vectors.md writes out as numbers decode to the operations it names: latch 10, flip-flop 11, BIT 11, REG16 0x14B87, RAM8 0x12347, RAM64 0x000493, RAM16K 0x2D2D5579, MUX2 011, DEMUX8 1001, DEMUX4 110. -/
def Obligations.SpecWordsDecode : Prop :=
  decode .latch (Bus.ofNat 2 0b10) = .ok .latchSet ∧
  decode .gff (Bus.ofNat 2 0b11) = .ok (.gffCommit 1) ∧
  decode .bit (Bus.ofNat 2 0b11) = .ok (.bitLoad 1) ∧
  decode .reg16 (Bus.ofNat 17 0x14B87) = .ok (.reg16Load (Bus.ofNat 16 0xA5C3)) ∧
  decode (.bank .ram8) (Bus.ofNat 20 0x12347) =
    .ok (.ram8Write (Bus.ofNat 16 0x1234) [0, 1, 1]) ∧
  decode (.bank .ram64) (Bus.ofNat 23 0x000493) =
    .ok (.ram64Write (Bus.ofNat 16 0x0009) [0, 0, 1, 0, 0, 1]) ∧
  decode (.bank .ram16k) (Bus.ofNat 31 0x2D2D5579) =
    .ok (.ram16kWrite (Bus.ofNat 16 0x5A5A) [1, 0, 1, 0, 1, 0, 1, 0, 1, 1, 1, 1, 0, 0]) ∧
  decode .mux2 (Bus.ofNat 3 0b011) = .ok (.mux2 0 1 1) ∧
  decode .demux8 (Bus.ofNat 4 0b1001) = .ok (.demux8 1 [0, 0, 1]) ∧
  decode .demux4 (Bus.ofNat 3 0b110) = .ok (.demux4 1 [1, 0])

/-- The value of a bus is the sum over its positions j of its bit at j times 2^(n-1-j), index 0 first; the bus of a checked value carries at index j the value's bit of weight 2^(n-1-j) and reads back as that value. -/
def Obligations.BusValueMsbFirst : Prop :=
  (∀ b : Bus, busVal b = ∑ j ∈ Finset.range b.length, b.getD j 0 * 2 ^ (b.length - 1 - j)) ∧
  ∀ (w : Nat) (v : BitVec w), busVal (Bus.ofBitVec v) = v.toNat ∧
    ∀ j, j < w → (Bus.ofBitVec v)[j]? = some (Port.ofBit (v.getMsbD j))

/-- For every level, top3 is the bus of the address's first three bits and rest the bus of the bits after them; for RAM16K, top2 is its first two bits and rest the twelve after them. -/
def Obligations.AddressSplit : Prop :=
  (∀ (k : Nat) (a : BitVec (3 * (k + 1))),
    (∀ j, j < 3 → (top3 k a).getMsbD j = a.getMsbD j) ∧
      ∀ j, j < 3 * k → (rest k a).getMsbD j = a.getMsbD (3 + j)) ∧
  ∀ a : BitVec 14,
    (∀ j, j < 2 → (top2 a).getMsbD j = a.getMsbD j) ∧
      ∀ j, j < 12 → (rest12 a).getMsbD j = a.getMsbD (2 + j)

/-- With load 1 exactly the line at the value of top3 is 1, with load 0 every line is 0, so at most one child receives a write enable. -/
def Obligations.DecodeEnableLines : Prop :=
  ∀ (load : Bit) (t : BitVec 3),
    (∀ (i : Nat) (h : i < 8), (demux8 true t)[i] = decide (i = t.toNat)) ∧
    (∀ (i : Nat) (h : i < 8), (demux8 false t)[i] = false) ∧
    ∀ (i j : Nat) (hi : i < 8) (hj : j < 8),
      (demux8 load t)[i] = true → (demux8 load t)[j] = true → i = j

/-- For every level, state, input, address and load, child i of the new bank is child i ticked with the same input, the same rest and its own enable line, whichever child is addressed; a child whose enable is 0 keeps all its contents, and its whole state if its cells were complementary. -/
def Obligations.EveryChildTicks : Prop :=
  ∀ (k : Nat) (s : Bank (k + 1)) (v : Word) (a : BitVec (3 * (k + 1))) (load : Bit) (i : Nat)
    (h : i < 8),
    (bankTick (k + 1) s v a load).1[i] =
      (bankTick k s[i] v (rest k a) (demux8 load (top3 k a))[i]).1 ∧
    ((demux8 load (top3 k a))[i] = false →
      (∀ x, Bank.contents k (bankTick (k + 1) s v a load).1[i] x = Bank.contents k s[i] x) ∧
      (Bank.Complementary k s[i] → (bankTick (k + 1) s v a load).1[i] = s[i]))

/-- Two banks of one level whose cells are all complementary and whose contents agree at every address are equal, and so are two such RAM16K states. -/
def Obligations.ContentsDetermineBank : Prop :=
  (∀ (k : Nat) (s t : Bank k), Bank.Complementary k s → Bank.Complementary k t →
    (∀ x, Bank.contents k s x = Bank.contents k t x) → s = t) ∧
  ∀ s t : Ram16k, (TopUnit.ram16k s).Complementary → (TopUnit.ram16k t).Complementary →
    (∀ x, s.contents x = t.contents x) → s = t

/-- For every bank the machine has, every state, word v and address a: the tick with load 1 answers a next state that returns v and whose contents are the old ones with v at a; the tick with load 0 one that returns the old word at a and whose contents are the old ones. -/
def Obligations.BankTickLaw : Prop :=
  (∀ (s : State) (b : BankName) (v : Word) (a : BitVec b.addressWidth), s.hasBank b →
    (∃ t, exec (bankOperation b (Bus.ofBitVec v) (Bus.ofBitVec a) true) s = .next t ∧
      t.output = some (.word v) ∧
      ∀ x, t.memRead b x = if x = a.toNat then some v else s.memRead b x) ∧
    ∃ t w, exec (bankOperation b (Bus.ofBitVec v) (Bus.ofBitVec a) false) s = .next t ∧
      t.output = some (.word w) ∧ s.memRead b a.toNat = some w ∧
      ∀ x, t.memRead b x = s.memRead b x) ∧
  ∀ (k : Nat) (s t : Bank k), Bank.Complementary k s → Bank.Complementary k t →
    (∀ x, Bank.contents k s x = Bank.contents k t x) → s = t

/-- For every bank the machine has, every starting state and every sequence of READ and WRITE ticks of that bank, the sequence runs to a final state, in which the word at each address is the input of the last tick that wrote there, or what stood there at the start if none did, and a READ returns it. -/
def Obligations.LastWriteIsRead : Prop :=
  ∀ (s : State) (b : BankName) (ts : List (Word × BitVec b.addressWidth × Bit))
    (a : BitVec b.addressWidth) (v : Word), s.hasBank b →
    ∃ t, runTicks (bankTicks b ts) s = .next t ∧
      t.memRead b a.toNat = lastWritten a (s.memRead b a.toNat) ts ∧
      ∃ t' w, exec (bankOperation b (Bus.ofBitVec v) (Bus.ofBitVec a) false) t = .next t' ∧
        lastWritten a (s.memRead b a.toNat) ts = some w ∧ t'.output = some (.word w)

/-- For every bank the machine has, every address a, values v and x: the WRITE of v at a answers a next state, in which the READ at a, with any data input x, answers a next state that returns v. -/
def Obligations.WriteThenRead : Prop :=
  ∀ (s : State) (b : BankName) (v x : Word) (a : BitVec b.addressWidth), s.hasBank b →
    ∃ t t', exec (bankOperation b (Bus.ofBitVec v) (Bus.ofBitVec a) true) s = .next t ∧
      exec (bankOperation b (Bus.ofBitVec x) (Bus.ofBitVec a) false) t = .next t' ∧
      t'.output = some (.word v)

/-- For every bank the machine has and every two distinct addresses a and c: a READ of c after the WRITE of v at a returns what a READ of c returns without that write. -/
def Obligations.WritesAreIsolated : Prop :=
  ∀ (s : State) (b : BankName) (v x : Word) (a c : BitVec b.addressWidth), s.hasBank b → a ≠ c →
    ∃ t t' t'', exec (bankOperation b (Bus.ofBitVec v) (Bus.ofBitVec a) true) s = .next t ∧
      exec (bankOperation b (Bus.ofBitVec x) (Bus.ofBitVec c) false) t = .next t' ∧
      exec (bankOperation b (Bus.ofBitVec x) (Bus.ofBitVec c) false) s = .next t'' ∧
      t'.output = t''.output

/-- For every bank the machine has: after the WRITE of v at a, any number of READ ticks of the bank at any addresses run to a state in which a READ of a returns v. -/
def Obligations.ValuesPersist : Prop :=
  ∀ (s t : State) (b : BankName) (v x : Word) (a : BitVec b.addressWidth)
    (reads : List (Word × BitVec b.addressWidth)), s.hasBank b →
    exec (bankOperation b (Bus.ofBitVec v) (Bus.ofBitVec a) true) s = .next t →
      ∃ t' t'', runTicks (bankTicks b (reads.map fun r => (r.1, r.2, false))) t = .next t' ∧
        exec (bankOperation b (Bus.ofBitVec x) (Bus.ofBitVec a) false) t' = .next t'' ∧
        t''.output = some (.word v)

/-- For every bank the machine has: if every cell is complementary, a READ answers a next state that differs only in the value returned; in any state it leaves every word; two READs at one address return the same word; writing v twice at a leaves the same state as writing it once. -/
def Obligations.ReadsChangeNothing : Prop :=
  ∀ (s : State) (b : BankName) (v x : Word) (a : BitVec b.addressWidth), s.hasBank b →
    (s.CellsComplementary → ∃ w,
      exec (bankOperation b (Bus.ofBitVec v) (Bus.ofBitVec a) false) s =
        .next { s with output := some (.word w) }) ∧
    (∃ t t', exec (bankOperation b (Bus.ofBitVec v) (Bus.ofBitVec a) false) s = .next t ∧
      (∀ y, t.memRead b y = s.memRead b y) ∧
      exec (bankOperation b (Bus.ofBitVec x) (Bus.ofBitVec a) false) t = .next t' ∧
      t'.output = t.output) ∧
    ∃ t, exec (bankOperation b (Bus.ofBitVec v) (Bus.ofBitVec a) true) s = .next t ∧
      exec (bankOperation b (Bus.ofBitVec v) (Bus.ofBitVec a) true) t = .next t

/-- A BIT.LOAD of i returns i, the q of its new state, and a BIT.HOLD after it returns i; a REG16.LOAD of v returns v, its new value, and a REG16.HOLD after it returns v; a bank WRITE of v returns v and a READ at its address after it returns v. -/
def Obligations.LoadsWriteThrough : Prop :=
  (∀ (s : State) (i x : Bit), ∃ t t',
    exec (.bitLoad (Port.ofBit i)) s = .next t ∧ t.output = some (.bit i) ∧ t.bit.cell.q = i ∧
      exec (.bitHold (Port.ofBit x)) t = .next t' ∧ t'.output = some (.bit i)) ∧
  (∀ (s : State) (v x : Word), ∃ t t',
    exec (.reg16Load (Bus.ofBitVec v)) s = .next t ∧ t.output = some (.word v) ∧
      t.reg16.value = v ∧
      exec (.reg16Hold (Bus.ofBitVec x)) t = .next t' ∧ t'.output = some (.word v)) ∧
  ∀ (s : State) (b : BankName) (v x : Word) (a : BitVec b.addressWidth), s.hasBank b →
    ∃ t t', exec (bankOperation b (Bus.ofBitVec v) (Bus.ofBitVec a) true) s = .next t ∧
      t.output = some (.word v) ∧
      exec (bankOperation b (Bus.ofBitVec x) (Bus.ofBitVec a) false) t = .next t' ∧
      t'.output = some (.word v)

/-- If an operation answers a next state, then every unit other than the operation's own (RAM16K and RAM32K being two forms of one top unit) is as before, cell by cell, so every bank other than its own reads as before at every address, and the driver's remaining requests are as before; a combinational contract changes no unit. -/
def Obligations.TickChangesOwnUnitOnly : Prop :=
  ∀ (i : Instr) (s t : State), exec i s = .next t →
    (∀ u, ¬ SharesStorage u i.unit → SameUnit u s t) ∧
    (∀ b x, ¬ SharesStorage (.bank b) i.unit → t.memRead b x = s.memRead b x) ∧
    t.requests = s.requests

/-- If two machines agree on an operation's own unit and the operation answers a next state on one, it answers one on the other, with the same value returned and the same new state of that unit, whatever else differs. -/
def Obligations.TickReadsOwnUnitOnly : Prop :=
  ∀ (i : Instr) (s s' t : State), SameUnit i.unit s s' → exec i s = .next t →
    ∃ t', exec i s' = .next t' ∧ t'.output = t.output ∧ SameUnit i.unit t t'

/-- Every operation whose ports are Bits of the contract's widths answers a next state on every machine that has its unit, and returns a value to the driver. -/
def Obligations.WellFormedOperationsComplete : Prop :=
  ∀ (i : Instr) (s : State), i.wellFormed = true → s.hasUnit i.unit →
    ∃ t o, exec i s = .next t ∧ t.output = some o

/-- No operation and no step ends in Fatal(DECODE_INDEX), on any state. -/
def Obligations.NoDecodeIndexFatal : Prop :=
  ∀ (s : State) (u : UnitName) (n : Nat),
    (∀ i : Instr, exec i s ≠ .fault (.decodeIndex u n)) ∧ step s ≠ .fault (.decodeIndex u n)

/-- If an operation answers a next state in which the latch is (0, 0) and it was not before, the operation is LATCH.BOTH; and no operation makes the LatchState kept for GFF non-complementary if it was complementary. -/
def Obligations.InvalidStateOnlyFromLatchBoth : Prop :=
  ∀ (i : Instr) (s t : State), exec i s = .next t →
    (t.latch = ⟨false, false⟩ → s.latch ≠ ⟨false, false⟩ → i = .latchBoth) ∧
    (Complementary s.gff → Complementary t.gff)

/-- When the driver's next request decodes to an operation i, the step is i run on the state with that request taken off and with the LatchState it passes delivered (MODEL'S CHOICE of where the caller's LatchState is held: log entry 11): a LATCH or GFF call that passes p makes p the one held for that unit, every other request, each form written out, delivers nothing. -/
def Obligations.StepRunsDecoded : Prop :=
  (∀ (s : State) (r : Request) (rs : List Request) (i : Instr), s.requests = r :: rs →
    decodeRequest r = .ok i → step s = exec i (State.deliver { s with requests := rs } r)) ∧
  (∀ (s : State) (a b : Port) (p : LatchState),
    s.deliver (.call (.latch a b (some p))) = { s with latch := p } ∧
    s.deliver (.call (.gatedFlipFlop a b (some p))) = { s with gff := p } ∧
    s.deliver (.call (.latch a b none)) = s ∧ s.deliver (.call (.gatedFlipFlop a b none)) = s) ∧
  (∀ (s : State) (a b c : Port) (i t : Bus) (o : List Bus) (n : BankName),
    s.deliver (.call (.bit a b)) = s ∧ s.deliver (.call (.reg16 i a)) = s ∧
    s.deliver (.call (.bank n i t a)) = s ∧ s.deliver (.call (.mux2 a b c)) = s ∧
    s.deliver (.call (.demux8 a t)) = s ∧ s.deliver (.call (.mux8x16 o t)) = s ∧
    s.deliver (.call (.demux4 a t)) = s ∧ s.deliver (.call (.mux4x16 o t)) = s) ∧
  ∀ (s : State) (u : UnitName) (ports : Bus), s.deliver (.vector u ports) = s

/-- For every well-formed operation i, when the driver's next request is i's unit with i's port vector, the step is i run on the state with that request taken off. -/
def Obligations.StepRunsEncoded : Prop :=
  ∀ (s : State) (i : Instr) (rs : List Request), i.wellFormed = true →
    s.requests = .vector i.unit (encode i) :: rs → step s = exec i { s with requests := rs }

/-- MODEL'S CHOICE of what a port vector of a wrong total width is (log entry 7, from R60 and the duty of R125): when the driver's next request is a unit with a vector of Bits whose width is not that unit's format's, the step is Fatal(BUS_WIDTH) for that unit, recording the width found. -/
def Obligations.StepStopsOnMalformedVector : Prop :=
  ∀ (s : State) (u : UnitName) (ports : Bus) (rs : List Request),
    s.requests = .vector u ports :: rs → ports.allBits = true → ports.length ≠ u.formatWidth →
      step s = .fault (.busWidth u .vector ports.length)

/-- A step that answers a next state takes the first request off the driver's list and leaves the others in order; with no request left nothing changes (MODEL'S CHOICE, log entry 6). -/
def Obligations.StepsTakeRequestsInOrder : Prop :=
  (∀ (s t : State) (r : Request) (rs : List Request), s.requests = r :: rs → step s = .next t →
    t.requests = rs) ∧
  ∀ s : State, s.requests = [] → step s = .next s

/-- From every state in which every cell of the BIT, the REG16 and the banks is complementary, a step that answers a next state gives one in which every such cell is complementary: the invalid state (0, 0) never enters a register or bank. -/
def Obligations.StepKeepsCellsComplementary : Prop :=
  ∀ s t : State, s.CellsComplementary → step s = .next t → t.CellsComplementary

/-- A step that answers a next state leaves the machine's TOP_BANK as it was, so it has the same units. -/
def Obligations.StepKeepsShape : Prop :=
  ∀ s t : State, step s = .next t → t.top.kind = s.top.kind ∧ ∀ u, s.hasUnit u → t.hasUnit u

/-- In every state, with no assumption on its cells, an operation that answers a next state leaves every cell of the BIT, REG16 or bank it ticked complementary. -/
def Obligations.FirstTickMakesComplementary : Prop :=
  ∀ (i : Instr) (s t : State), exec i s = .next t → UnitComplementary i.unit t

/-- After construction under INIT_POLICY = ZERO with any TOP_BANK, so also at reset, every cell of the BIT, the REG16 and the banks is complementary. -/
def Obligations.ResetIsComplementary : Prop :=
  State.reset.CellsComplementary ∧ ∀ t : TopBank, (State.construct .zero t).CellsComplementary

/-- At reset, which is construction under ZERO with RAM16K_4WAY, the latch is (0,1), the BIT cell is (0,1), the REG16 holds 0, and with any TOP_BANK every cell of every word of every bank the machine has is (0,1), every such word reads 0, and there is no word outside the bank. Construction builds the TOP_BANK it is given. Under UNSPECIFIED, with any TOP_BANK, the latch is draw 0, the LatchState held for GFF draw 1, the BIT cell draw 2, lane j of the REG16 draw 3+j, and lane j (q and nq) of word x of each bank the machine has draw B+16x+j, B being 19 for RAM8, 147 for RAM64, 1171 for RAM512, 9363 for RAM4K and 74899 for the top unit, so the word reads the q bits of its own draws. (MODEL'S CHOICE: the numbering of the draws, log entry 3; construction of the LatchState GFF's caller holds, log entry 2; no value returned and no request, log entries 5 and 6.) -/
def Obligations.ConstructionValues : Prop :=
  (State.reset = State.construct .zero .ram16k4way ∧
    State.reset.latch = ⟨false, true⟩ ∧ State.reset.gff = ⟨false, true⟩ ∧
    State.reset.bit.cell = ⟨false, true⟩ ∧ State.reset.reg16.value = 0 ∧
    State.reset.output = none ∧ State.reset.requests = []) ∧
  (∀ (p : InitPolicy) (t : TopBank), (State.construct p t).top.kind = t) ∧
  (∀ (t : TopBank) (b : BankName) (x : Nat), (State.construct .zero t).hasBank b →
    ((State.construct .zero t).memRead b x = if x < 2 ^ b.addressWidth then some 0 else none) ∧
    ∀ j : Fin 16, (State.construct .zero t).memCell b x j =
      if x < 2 ^ b.addressWidth then some ⟨false, true⟩ else none) ∧
  ∀ t : TopBank,
    (State.construct .unspecified t).latch = Config.freeDraw 0 ∧
    (State.construct .unspecified t).gff = Config.freeDraw 1 ∧
    (State.construct .unspecified t).bit.cell = Config.freeDraw 2 ∧
    (∀ (j : Nat) (h : j < 16),
      (State.construct .unspecified t).reg16.bit[j].cell = Config.freeDraw (3 + j)) ∧
    ∀ (b : BankName) (x : Nat), (State.construct .unspecified t).hasBank b →
      x < 2 ^ b.addressWidth →
      (∀ j : Fin 16, (State.construct .unspecified t).memCell b x j =
        some (Config.freeDraw (drawBase b + 16 * x + j.val))) ∧
      (State.construct .unspecified t).memRead b x =
        some (BitVec.ofFnBE fun j : Fin 16 => (Config.freeDraw (drawBase b + 16 * x + j.val)).q)

/-- MODEL'S CHOICE of which stop is met where several apply (log entries 8 and 16, and 7 for the widths of contracts and vectors). On every machine, whatever widths are wrong and whether or not the unit is built: an operation, and a step on a request, with a value that is no Bit on any port is refused as nonBit for its unit, naming a value of 2 or more. On every machine, whether or not the unit is built: an operation, and a step on a request, whose ports are Bits and of which some width is wrong is Fatal(BUS_WIDTH) for its unit; a bank operation records the one port that is wrong and its width. -/
def Obligations.OrderOfStops : Prop :=
  (∀ (i : Instr) (s : State), i.bitsOnly = false →
    ∃ p x, exec i s = .refused (.nonBit i.unit p x) ∧ 2 ≤ x) ∧
  (∀ (s : State) (r : Request) (rs : List Request), s.requests = r :: rs → r.bitsOnly = false →
    ∃ p x, step s = .refused (.nonBit r.unit p x) ∧ 2 ≤ x) ∧
  (∀ (i : Instr) (s : State), i.bitsOnly = true → i.widthsOk = false →
    ∃ p n, exec i s = .fault (.busWidth i.unit p n)) ∧
  (∀ (s : State) (r : Request) (rs : List Request), s.requests = r :: rs → r.bitsOnly = true →
    r.widthsOk = false → ∃ p n, step s = .fault (.busWidth r.unit p n)) ∧
  ∀ (s : State) (b : BankName) (input address : Bus) (load : Bit),
    input.allBits = true → address.allBits = true →
    (input.length ≠ 16 → address.length = b.addressWidth →
      exec (bankOperation b input address load) s =
        .fault (.busWidth (.bank b) .input input.length)) ∧
    (input.length = 16 → address.length ≠ b.addressWidth →
      exec (bankOperation b input address load) s =
        .fault (.busWidth (.bank b) .address address.length))

/-- For every contract call, decodeRequest gives the operation of the operation map that its control ports select, with the call's other ports as its operands, whatever previous LatchState a LATCH or GFF call passes: LATCH by (set, reset) = 00, 01, 10, 11; GFF by enable; BIT, REG16 and each bank by load; the combinational contracts always. And for every call of the contract's widths, its port vector, the ports laid end to end, selects what the call selects. -/
def Obligations.CallsSelectOperations : Prop :=
  (∀ p : Option LatchState,
    decodeRequest (.call (.latch 0 0 p)) = .ok .latchHold ∧
    decodeRequest (.call (.latch 0 1 p)) = .ok .latchReset ∧
    decodeRequest (.call (.latch 1 0 p)) = .ok .latchSet ∧
    decodeRequest (.call (.latch 1 1 p)) = .ok .latchBoth) ∧
  (∀ (d : Port) (p : Option LatchState),
    decodeRequest (.call (.gatedFlipFlop d 0 p)) = .ok (.gffHold d) ∧
    decodeRequest (.call (.gatedFlipFlop d 1 p)) = .ok (.gffCommit d)) ∧
  (∀ i : Port,
    decodeRequest (.call (.bit i 0)) = .ok (.bitHold i) ∧
    decodeRequest (.call (.bit i 1)) = .ok (.bitLoad i)) ∧
  (∀ i : Bus,
    decodeRequest (.call (.reg16 i 0)) = .ok (.reg16Hold i) ∧
    decodeRequest (.call (.reg16 i 1)) = .ok (.reg16Load i)) ∧
  (∀ i a : Bus,
    decodeRequest (.call (.bank .ram8 i a 0)) = .ok (.ram8Read i a) ∧
    decodeRequest (.call (.bank .ram8 i a 1)) = .ok (.ram8Write i a) ∧
    decodeRequest (.call (.bank .ram64 i a 0)) = .ok (.ram64Read i a) ∧
    decodeRequest (.call (.bank .ram64 i a 1)) = .ok (.ram64Write i a) ∧
    decodeRequest (.call (.bank .ram512 i a 0)) = .ok (.ram512Read i a) ∧
    decodeRequest (.call (.bank .ram512 i a 1)) = .ok (.ram512Write i a) ∧
    decodeRequest (.call (.bank .ram4k i a 0)) = .ok (.ram4kRead i a) ∧
    decodeRequest (.call (.bank .ram4k i a 1)) = .ok (.ram4kWrite i a) ∧
    decodeRequest (.call (.bank .ram16k i a 0)) = .ok (.ram16kRead i a) ∧
    decodeRequest (.call (.bank .ram16k i a 1)) = .ok (.ram16kWrite i a) ∧
    decodeRequest (.call (.bank .ram32k i a 0)) = .ok (.ram32kRead i a) ∧
    decodeRequest (.call (.bank .ram32k i a 1)) = .ok (.ram32kWrite i a)) ∧
  (∀ (x y z : Port) (t : Bus) (o : List Bus),
    decodeRequest (.call (.mux2 x y z)) = .ok (.mux2 x y z) ∧
    decodeRequest (.call (.demux8 x t)) = .ok (.demux8 x t) ∧
    decodeRequest (.call (.mux8x16 o t)) = .ok (.mux8x16 o t) ∧
    decodeRequest (.call (.demux4 x t)) = .ok (.demux4 x t) ∧
    decodeRequest (.call (.mux4x16 o t)) = .ok (.mux4x16 o t)) ∧
  ∀ c : Call, c.widthsOk = true →
    decodeRequest (.vector c.unit c.vector) = decodeRequest (.call c)
end

