-- ==== Sys2Proof/Tests/Slice0.lean ====
section
/-! SUPPORT. Tests. Every expected value is written out from the spec (the file and row stand in each
section's comment), never from the model's own answer. The witnesses at the end show, for every statement
with hypotheses, a concrete input that meets them. -/
namespace Sys2Proof.Tests
open Sys2Proof Sys2Proof.Machine

/-- The value a result returns to the driver. -/
def returned : Host.Outcome State Fault Refusal → Option Output
  | .next t => t.output
  | _ => none

/-- The fault a result ends in. -/
def faultOf : Host.Outcome State Fault Refusal → Option Fault
  | .fault f => some f
  | _ => none

/-- The refusal a result ends in. -/
def refusalOf : Host.Outcome State Fault Refusal → Option Refusal
  | .refused r => some r
  | _ => none

/-- The state a result goes on from; the machine at reset if it does not go on. -/
def after : Host.Outcome State Fault Refusal → State
  | .next t => t
  | _ => State.reset

/-- A machine at reset whose driver asks for these ticks. -/
def asking (rs : List Request) : State := { State.reset with requests := rs }

/-- A bus of zeros and a bus of ones, of this width. -/
def zeros (w : Nat) : Bus := List.replicate w 0
def ones (w : Nat) : Bus := List.replicate w 1

/-! WellFormed: a well-formed operation, and an ill-formed one for each check. -/

theorem test_wellFormed_accepts :
    (Instr.ram8Write (ones 16) [0, 1, 1]).wellFormed = true ∧
    (Instr.mux8x16 (List.replicate 8 (ones 16)) [1, 1, 0]).wellFormed = true ∧
    (Instr.bitLoad 1).wellFormed = true := by decide

theorem test_wellFormed_refuses_nonBit_port : (Instr.bitLoad 2).wellFormed = false := by decide

theorem test_wellFormed_refuses_nonBit_on_bus :
    (Instr.ram8Read (ones 15 ++ [2]) [0, 1, 1]).wellFormed = false := by decide

theorem test_wellFormed_refuses_data_width :
    (Instr.reg16Load (ones 15)).wellFormed = false ∧
    (Instr.reg16Hold (ones 17)).wellFormed = false := by decide

theorem test_wellFormed_refuses_address_width :
    (Instr.ram8Read (ones 16) [0, 1]).wellFormed = false ∧
    (Instr.ram8Write (ones 16) [0, 1, 0, 1]).wellFormed = false ∧
    (Instr.ram64Read (ones 16) (ones 5)).wellFormed = false ∧
    (Instr.ram512Read (ones 16) (ones 8)).wellFormed = false ∧
    (Instr.ram4kRead (ones 16) (ones 11)).wellFormed = false ∧
    (Instr.ram16kRead (ones 16) (ones 12)).wellFormed = false ∧
    (Instr.ram32kRead (ones 16) (ones 14)).wellFormed = false := by decide

theorem test_wellFormed_refuses_selector_width :
    (Instr.demux8 1 [0, 1]).wellFormed = false ∧
    (Instr.demux4 1 [0, 1, 1]).wellFormed = false ∧
    (Instr.mux4x16 (List.replicate 4 (ones 16)) [1]).wellFormed = false := by decide

theorem test_wellFormed_refuses_options :
    (Instr.mux8x16 (List.replicate 7 (ones 16)) [0, 0, 0]).wellFormed = false ∧
    (Instr.mux4x16 (List.replicate 4 (ones 15)) [0, 0]).wellFormed = false := by decide

/-! Decode: for every constructor a vector written out from 30_encoding.md R52 and R56 or from
95_test_vectors.md, position 0 first. -/

theorem test_decode_latch :
    decode .latch [0, 0] = .ok .latchHold ∧ decode .latch [0, 1] = .ok .latchReset ∧
    decode .latch [1, 0] = .ok .latchSet ∧ decode .latch [1, 1] = .ok .latchBoth := by decide

theorem test_decode_gff :
    decode .gff [1, 0] = .ok (.gffHold 1) ∧ decode .gff [0, 1] = .ok (.gffCommit 0) := by decide

theorem test_decode_bit :
    decode .bit [1, 0] = .ok (.bitHold 1) ∧ decode .bit [0, 1] = .ok (.bitLoad 0) := by decide

-- 95 section 2.1, REG16 ticks 1 and 5
theorem test_decode_reg16_hold :
    decode .reg16 [1,0,1,0,0,1,0,1,1,1,0,0,0,0,1,1, 0] =
      .ok (.reg16Hold [1,0,1,0,0,1,0,1,1,1,0,0,0,0,1,1]) := by decide

theorem test_decode_reg16_load :
    decode .reg16 [1,0,0,0,0,0,0,0,0,0,0,0,0,0,0,1, 1] =
      .ok (.reg16Load [1,0,0,0,0,0,0,0,0,0,0,0,0,0,0,1]) := by decide

-- 95 section 3, P1 ticks 5 and 1
theorem test_decode_ram8_read :
    decode (.bank .ram8) [0,0,0,0,0,0,0,0,0,0,0,0,0,0,0,0, 1,0,0, 0] =
      .ok (.ram8Read (zeros 16) [1,0,0]) := by decide

theorem test_decode_ram8_write :
    decode (.bank .ram8) [0,0,0,1,0,0,1,0,0,0,1,1,0,1,0,0, 0,1,1, 1] =
      .ok (.ram8Write [0,0,0,1,0,0,1,0,0,0,1,1,0,1,0,0] [0,1,1]) := by decide

-- 95 section 3, P2 ticks 5 and 2
theorem test_decode_ram64_read :
    decode (.bank .ram64) [0,0,0,0,0,0,0,0,0,0,0,0,0,0,0,0, 0,0,1,0,0,1, 0] =
      .ok (.ram64Read (zeros 16) [0,0,1,0,0,1]) := by decide

theorem test_decode_ram64_write :
    decode (.bank .ram64) [0,0,0,0,0,0,0,0,0,0,0,0,1,0,0,1, 0,0,1,0,0,1, 1] =
      .ok (.ram64Write [0,0,0,0,0,0,0,0,0,0,0,0,1,0,0,1] [0,0,1,0,0,1]) := by decide

-- R52 F_RAM9 with address 300 = 100 101 100 (95 section 2.3)
theorem test_decode_ram512_read :
    decode (.bank .ram512) ([0,0,0,0,0,0,0,0,0,0,0,0,0,0,0,0] ++ [1,0,0,1,0,1,1,0,0] ++ [0]) =
      .ok (.ram512Read (zeros 16) [1,0,0,1,0,1,1,0,0]) := by decide

theorem test_decode_ram512_write :
    decode (.bank .ram512) ([0,0,0,0,1,1,1,1,0,0,0,0,1,1,1,1] ++ [1,0,0,1,0,1,1,0,0] ++ [1]) =
      .ok (.ram512Write [0,0,0,0,1,1,1,1,0,0,0,0,1,1,1,1] [1,0,0,1,0,1,1,0,0]) := by decide

-- R52 F_RAM12 with address 2748 = 101 010 111 100
theorem test_decode_ram4k_read :
    decode (.bank .ram4k) (zeros 16 ++ [1,0,1,0,1,0,1,1,1,1,0,0] ++ [0]) =
      .ok (.ram4kRead (zeros 16) [1,0,1,0,1,0,1,1,1,1,0,0]) := by decide

theorem test_decode_ram4k_write :
    decode (.bank .ram4k) ([0,0,0,1,0,0,1,1,0,1,0,1,0,1,1,1] ++ [1,0,1,0,1,0,1,1,1,1,0,0] ++ [1]) =
      .ok (.ram4kWrite [0,0,0,1,0,0,1,1,0,1,0,1,0,1,1,1] [1,0,1,0,1,0,1,1,1,1,0,0]) := by decide

-- 95 section 3, P4 ticks 6 and 4
theorem test_decode_ram16k_read :
    decode (.bank .ram16k) (zeros 16 ++ [1,0,1,0,1,0,1,0,1,1,1,1,0,0] ++ [0]) =
      .ok (.ram16kRead (zeros 16) [1,0,1,0,1,0,1,0,1,1,1,1,0,0]) := by decide

theorem test_decode_ram16k_write :
    decode (.bank .ram16k)
        ([0,1,0,1,1,0,1,0,0,1,0,1,1,0,1,0] ++ [1,0,1,0,1,0,1,0,1,1,1,1,0,0] ++ [1]) =
      .ok (.ram16kWrite [0,1,0,1,1,0,1,0,0,1,0,1,1,0,1,0] [1,0,1,0,1,0,1,0,1,1,1,1,0,0]) := by
  decide

-- R52 F_RAM15
theorem test_decode_ram32k_read :
    decode (.bank .ram32k) (zeros 16 ++ [1,0,0,0,0,0,0,0,0,0,0,0,0,0,1] ++ [0]) =
      .ok (.ram32kRead (zeros 16) [1,0,0,0,0,0,0,0,0,0,0,0,0,0,1]) := by decide

theorem test_decode_ram32k_write :
    decode (.bank .ram32k) (ones 16 ++ [1,0,0,0,0,0,0,0,0,0,0,0,0,0,1] ++ [1]) =
      .ok (.ram32kWrite (ones 16) [1,0,0,0,0,0,0,0,0,0,0,0,0,0,1]) := by decide

-- 95 section 2.2
theorem test_decode_mux2 : decode .mux2 [0, 1, 1] = .ok (.mux2 0 1 1) := by decide

theorem test_decode_demux8 : decode .demux8 [1, 0, 0, 1] = .ok (.demux8 1 [0, 0, 1]) := by decide

theorem test_decode_demux4 : decode .demux4 [1, 1, 0] = .ok (.demux4 1 [1, 0]) := by decide

-- R103: option i at positions 16i to 16i+15
set_option maxRecDepth 4000 in
theorem test_decode_mux8x16 :
    decode .mux8x16 (zeros 16 ++ ones 16 ++ zeros 80 ++ ([1,0,0,0,0,0,0,0,0,0,0,0,0,0,0,1] ++ [1,1,0])) =
      .ok (.mux8x16 ([zeros 16, ones 16] ++ List.replicate 5 (zeros 16) ++
        [[1,0,0,0,0,0,0,0,0,0,0,0,0,0,0,1]]) [1,1,0]) := by decide

theorem test_decode_mux4x16 :
    decode .mux4x16 (zeros 32 ++ ([1,0,0,0,0,0,0,0,0,0,0,0,0,0,0,1] ++ ones 16 ++ [1,1])) =
      .ok (.mux4x16 [zeros 16, zeros 16, [1,0,0,0,0,0,0,0,0,0,0,0,0,0,0,1], ones 16] [1,1]) := by decide

/-- The hexadecimal of P1 tick 2 is the vector it is written beside (R51). -/
theorem test_hex_of_vector :
    Bus.ofNat 20 0xABCDB = [1,0,1,0,1,0,1,1,1,1,0,0,1,1,0,1, 1,0,1, 1] := by decide

theorem test_decode_rejects_width :
    decode (.bank .ram8) (zeros 19) = .error (.width (.bank .ram8) .vector 19) ∧
    decode .latch [0, 0, 0] = .error (.width .latch .vector 3) := by decide

theorem test_decode_rejects_nonBit_control :
    decode .bit [1, 2] = .error (.nonBit .bit .load 2) ∧
    decodeCall (.latch 0 7 none) = .error (.nonBit .latch .reset 7) := by decide

theorem test_tableWord :
    decodeTableWord 8 2 = some .latchSet ∧
    decodeTableWord 24 0x10003 = some (.reg16Load [1,0,0,0,0,0,0,0,0,0,0,0,0,0,0,1]) ∧
    decodeTableWord 24 0x20000 = none := by decide

/-! Latch and flip-flop: the tables of 95 section 2.1, P3. -/

theorem test_latch_holds_invalid :
    (after (exec .latchHold { State.reset with latch := ⟨true, true⟩ })).latch = ⟨true, true⟩ := by
  decide

theorem test_latch_reset_from_invalid :
    (after (exec .latchReset { State.reset with latch := ⟨false, false⟩ })).latch = ⟨false, true⟩ := by
  decide

theorem test_latch_set : (after (exec .latchSet State.reset)).latch = ⟨true, false⟩ := by decide

theorem test_latch_both :
    (after (exec .latchBoth { State.reset with latch := ⟨true, false⟩ })).latch = ⟨false, false⟩ := by
  decide

theorem test_gff_hold_keeps_invalid :
    returned (exec (.gffHold 1) { State.reset with gff := ⟨false, false⟩ }) =
      some (.latchState ⟨false, false⟩) := by decide

theorem test_gff_commit :
    (after (exec (.gffCommit 0) { State.reset with gff := ⟨true, false⟩ })).gff = ⟨false, true⟩ := by
  decide

/-! Registers: 95 section 2.1. -/

theorem test_bit_hold_repairs_nq :
    (after (exec (.bitHold 1) { State.reset with bit := ⟨⟨false, false⟩⟩ })).bit = ⟨⟨false, true⟩⟩ ∧
    (after (exec (.bitHold 0) { State.reset with bit := ⟨⟨true, true⟩⟩ })).bit = ⟨⟨true, false⟩⟩ := by
  decide

theorem test_bit_load_returns_new : returned (exec (.bitLoad 1) State.reset) = some (.bit true) := by
  decide

theorem test_reg16_load :
    (after (exec (.reg16Load (Bus.ofNat 16 0xA5C3)) State.reset)).reg16.value = 0xA5C3#16 := by decide

theorem test_reg16_hold_ignores_input :
    returned (exec (.reg16Hold (ones 16))
      (after (exec (.reg16Load (Bus.ofNat 16 0x8001)) State.reset))) = some (.word 0x8001#16) := by
  decide

theorem test_reg16_width :
    faultOf (exec (.reg16Load (ones 17)) State.reset) = some (.busWidth .reg16 .input 17) := by decide

/-! Banks: 95 section 2.3 (round trip, isolation, decode paths) and section 2.4. -/

/-- What a READ of a bank returns after one WRITE of it. -/
def readAfterWrite (b : BankName) (w v r : Nat) (s : State) : Option Output :=
  returned (exec (bankOperation b (zeros 16) (Bus.ofNat b.addressWidth r) false)
    (after (exec (bankOperation b (Bus.ofNat 16 v) (Bus.ofNat b.addressWidth w) true) s)))

theorem test_ram8_write_read : readAfterWrite .ram8 1 0x00FF 1 State.reset = some (.word 0x00FF#16) := by
  decide

theorem test_ram8_isolation : readAfterWrite .ram8 1 0x00FF 4 State.reset = some (.word 0#16) := by decide

theorem test_ram64_isolation : readAfterWrite .ram64 9 0x0909 1 State.reset = some (.word 0#16) := by decide

theorem test_ram64_write_read : readAfterWrite .ram64 9 0x0909 9 State.reset = some (.word 0x0909#16) := by
  decide

theorem test_ram512_write_read : readAfterWrite .ram512 300 0x0F0F 300 State.reset = some (.word 0x0F0F#16) := by
  decide

theorem test_ram512_isolation : readAfterWrite .ram512 300 0x0F0F 44 State.reset = some (.word 0#16) := by decide

theorem test_ram4k_write_read : readAfterWrite .ram4k 2748 0x1357 2748 State.reset = some (.word 0x1357#16) := by
  decide

theorem test_ram4k_isolation : readAfterWrite .ram4k 2748 0x1357 700 State.reset = some (.word 0#16) := by decide

theorem test_ram16k_write_read :
    readAfterWrite .ram16k 16383 0x8000 16383 State.reset = some (.word 0x8000#16) := by decide

theorem test_ram16k_isolation : readAfterWrite .ram16k 16383 0x8000 4095 State.reset = some (.word 0#16) := by
  decide

-- R89: RAM32K on a machine built with it
theorem test_ram32k_write_read :
    readAfterWrite .ram32k 32767 0x1234 32767 (State.construct .zero .ram32k8way) = some (.word 0x1234#16) := by
  decide

theorem test_ram32k_isolation :
    readAfterWrite .ram32k 4096 0x1234 0 (State.construct .zero .ram32k8way) = some (.word 0#16) := by decide

theorem test_ram32k_not_admitted_by_default :
    refusalOf (exec (.ram32kRead (zeros 16) (zeros 15)) State.reset) =
      some (.unitNotBuilt (.bank .ram32k)) := by decide

/-- The decode path of address 2748 in RAM4K, 5 then 2 then 7 then REG16 4 (R97, 95 section 2.3). -/
theorem test_ram4k_path :
    ((((after (exec (.ram4kWrite (Bus.ofNat 16 0x1357) (Bus.ofNat 12 2748)) State.reset)).ram4k[5])[2])[7])[4].value
      = 0x1357#16 := by decide

theorem test_fatal_vectors :
    faultOf (exec (.ram8Read (zeros 16) [0, 1]) State.reset) = some (.busWidth (.bank .ram8) .address 2) ∧
    faultOf (exec (.ram8Read (zeros 16) (zeros 4)) State.reset) =
      some (.busWidth (.bank .ram8) .address 4) ∧
    faultOf (exec (.ram16kRead (zeros 16) (zeros 12)) State.reset) =
      some (.busWidth (.bank .ram16k) .address 12) ∧
    faultOf (exec (.ram64Read (zeros 15) (zeros 2)) State.reset) =
      some (.busWidth (.bank .ram64) .input 15) := by decide

theorem test_fault_codes :
    (Fault.busWidth .reg16 .input 17).code = 1 ∧ (Fault.decodeIndex (.bank .ram8) 9).code = 2 := by decide

theorem test_nonBit_refused :
    refusalOf (exec (.ram8Read (zeros 16) [0, 2, 0]) State.reset) =
      some (.nonBit (.bank .ram8) .address 2) := by decide

/-! Contracts: 95 section 2.2. -/

theorem test_mux2 :
    returned (exec (.mux2 0 1 1) State.reset) = some (.bit true) ∧
    returned (exec (.mux2 0 1 0) State.reset) = some (.bit false) := by decide

theorem test_demux8 :
    returned (exec (.demux8 1 [1, 0, 0]) State.reset) =
      some (.lines8 #v[false, false, false, false, true, false, false, false]) := by decide

theorem test_demux4 :
    returned (exec (.demux4 1 [1, 0]) State.reset) = some (.lines4 #v[false, false, true, false]) := by
  decide

theorem test_mux8x16 :
    returned (exec (.mux8x16 [Bus.ofNat 16 0x0000, Bus.ofNat 16 0x1111, Bus.ofNat 16 0x2222,
      Bus.ofNat 16 0x3333, Bus.ofNat 16 0x4444, Bus.ofNat 16 0x5555, Bus.ofNat 16 0x6666,
      Bus.ofNat 16 0x7777] [1, 1, 0]) State.reset) = some (.word 0x6666#16) := by decide

theorem test_mux4x16 :
    returned (exec (.mux4x16 [Bus.ofNat 16 0xAAAA, Bus.ofNat 16 0xBBBB, Bus.ofNat 16 0xCCCC,
      Bus.ofNat 16 0xDDDD] [1, 1]) State.reset) = some (.word 0xDDDD#16) := by decide

/-! Steps. -/

/-- HJS section 8, scenario S1a, as a call (R61). -/
theorem test_step_call :
    returned (step (asking [.call (.bank .ram8 (ones 16) [0, 0, 0] 1)])) = some (.word 0xFFFF#16) := by
  decide

/-- P3 tick 7: GFF.HOLD 1 threading the invalid state, which the caller passes. -/
theorem test_step_passes_previous :
    returned (step (asking [.call (.gatedFlipFlop 1 0 (some ⟨false, false⟩))])) =
      some (.latchState ⟨false, false⟩) := by decide

set_option maxRecDepth 4000 in
theorem test_withFetchWord_runs :
    returned (step (State.reset.withFetchWord 8 3)) = some (.latchState ⟨false, false⟩) ∧
    (returned (step (State.reset.withFetchWord 32 1))).isSome = true ∧
    (returned (step (State.reset.withFetchWord 136 0))).isSome = true := by decide

/-! Witnesses: for each statement of Certificates/Slice0/Obligations.lean with hypotheses, concrete
inputs that meet them all together, one for each clause and at its boundary. -/

/-- A machine whose cells are all complementary, and one with RAM32K. -/
def plain : State := State.construct .zero .none
def wide : State := State.construct .zero .ram32k8way

theorem plain_complementary : plain.CellsComplementary := State.construct_none_complementary

theorem witness_Reg16Operations :
    Bus.allBits (ones 15) = true ∧ (ones 15).length ≠ 16 ∧
    Bus.allBits (ones 17) = true ∧ (ones 17).length ≠ 16 := by decide

/-- Two different registers and two different inputs that agree in lane 15 alone. -/
theorem witness_Reg16LanesIndependent :
    State.reset.reg16.bit[15] =
      (after (exec (.reg16Load (Bus.ofNat 16 0xFFFE)) State.reset)).reg16.bit[15] ∧
    State.reset.reg16.bit[0] ≠
      (after (exec (.reg16Load (Bus.ofNat 16 0xFFFE)) State.reset)).reg16.bit[0] ∧
    (0x0001#16).getMsbD 15 = (0xFFFF#16).getMsbD 15 ∧
    (0x0001#16).getMsbD 0 ≠ (0xFFFF#16).getMsbD 0 := by decide

/-- The width clauses of the bank operations, at one below and one above each width. -/
theorem witness_Ram8Operations :
    Bus.allBits (ones 16) = true ∧ Bus.allBits (ones 2) = true ∧ (ones 2).length ≠ 3 ∧
    Bus.allBits (ones 4) = true ∧ (ones 4).length ≠ 3 ∧
    Bus.allBits (ones 15) = true ∧ (ones 15).length ≠ 16 := by decide

theorem witness_Ram64Operations :
    Bus.allBits (ones 16) = true ∧ Bus.allBits (ones 5) = true ∧ (ones 5).length ≠ 6 ∧
    Bus.allBits (ones 7) = true ∧ (ones 7).length ≠ 6 := by decide

theorem witness_Ram512Operations :
    Bus.allBits (ones 16) = true ∧ Bus.allBits (ones 8) = true ∧ (ones 8).length ≠ 9 ∧
    Bus.allBits (ones 10) = true ∧ (ones 10).length ≠ 9 := by decide

theorem witness_Ram4kOperations :
    Bus.allBits (ones 16) = true ∧ Bus.allBits (ones 11) = true ∧ (ones 11).length ≠ 12 ∧
    Bus.allBits (ones 13) = true ∧ (ones 13).length ≠ 12 := by decide

theorem witness_Ram16kOperations : (∃ r, State.reset.top = .ram16k r) ∧ State.reset.hasBank .ram16k ∧
    Bus.allBits (ones 13) = true ∧ (ones 13).length ≠ 14 ∧
    Bus.allBits (ones 15) = true ∧ (ones 15).length ≠ 14 :=
  ⟨⟨_, rfl⟩, rfl, by decide⟩

theorem witness_Ram32kOperations : (∃ r, wide.top = .ram32k r) ∧ wide.hasBank .ram32k ∧
    Bus.allBits (ones 14) = true ∧ (ones 14).length ≠ 15 ∧
    Bus.allBits (ones 16) = true ∧ (ones 16).length ≠ 15 :=
  ⟨⟨_, rfl⟩, rfl, by decide⟩

theorem witness_TopBankAdmits :
    State.reset.top.kind = .ram16k4way ∧ State.reset.top.kind ≠ .ram32k8way ∧
    wide.top.kind = .ram32k8way ∧ wide.top.kind ≠ .ram16k4way := by decide

theorem witness_WrongWidthsAreFatal :
    (State.reset.hasBank .ram16k ∧ State.reset.hasBank .ram8 ∧ State.reset.hasBank .ram64) ∧
    (Bus.allBits (ones 17) = true ∧ (ones 17).length ≠ 16) ∧
    ((ones 15).length ≠ 16 ∧ (ones 14).length = BankName.ram16k.addressWidth) ∧
    ((ones 16).length = 16 ∧ (ones 4).length ≠ BankName.ram8.addressWidth) ∧
    ((ones 15).length ≠ 16 ∧ (ones 2).length ≠ BankName.ram64.addressWidth) :=
  ⟨⟨rfl, trivial, trivial⟩, by decide⟩

theorem witness_ContractWidthsAreFatal :
    (Bus.allBits (ones 2) = true ∧ (ones 2).length ≠ 3) ∧
    (Bus.allBits (ones 3) = true ∧ (ones 3).length ≠ 2) ∧
    ((List.replicate 7 (ones 16)).all Bus.allBits = true ∧
      muxWidthsOk 8 3 (List.replicate 7 (ones 16)) (ones 3) = false) ∧
    ((List.replicate 4 (ones 17)).all Bus.allBits = true ∧
      muxWidthsOk 4 2 (List.replicate 4 (ones 17)) (ones 2) = false) := by decide

/-- A non-Bit on an address bus of the right width, on the load port of a call and of a vector, and in a
request. -/
theorem witness_NonBitsAreRefused :
    ((Instr.ram8Read (zeros 16) [0, 2, 0]).bitsOnly = false ∧
      (Instr.ram8Read (zeros 16) [0, 2, 0]).widthsOk = true) ∧
    (Call.bank .ram8 (zeros 16) (zeros 3) 2).controls.all Port.isBit = false ∧
    ((zeros 19 ++ [2]).length = (UnitName.bank .ram8).formatWidth ∧
      ((UnitName.bank .ram8).controls (zeros 19 ++ [2])).all Port.isBit = false) ∧
    ((asking [.call (.bit 1 2)]).requests = .call (.bit 1 2) :: [] ∧
      (Request.call (.bit 1 2)).bitsOnly = false ∧ (Request.call (.bit 1 2)).widthsOk = true) := by
  decide

/-- Every control port of the latch, flip-flop, BIT and REG16 is one whose non-Bit selects no operation. -/
theorem witness_NonBitControls :
    (Call.latch 2 0 none).controls.all Port.isBit = false ∧
    (Call.latch 0 2 none).controls.all Port.isBit = false ∧
    (Call.gatedFlipFlop 0 2 none).controls.all Port.isBit = false ∧
    (Call.bit 0 2).controls.all Port.isBit = false ∧
    (Call.reg16 (zeros 16) 2).controls.all Port.isBit = false := by decide

theorem witness_DecodeEncodeRoundTrip :
    (Instr.ram16kWrite (ones 16) (ones 14)).wellFormed = true ∧
    (Instr.mux4x16 (List.replicate 4 (ones 16)) (ones 2)).wellFormed = true := by decide

theorem witness_EncodeDecodeRoundTrip :
    Bus.allBits (ones 20) = true ∧ (ones 20).length = (UnitName.bank .ram8).formatWidth ∧
    decode (.bank .ram8) (ones 20) = .ok (.ram8Write (ones 16) (ones 3)) := by decide

theorem witness_EveryVectorHasAMeaning :
    Bus.allBits (ones 31) = true ∧ (ones 31).length = (UnitName.bank .ram16k).formatWidth ∧
    State.reset.hasUnit (.bank .ram16k) ∧ wide.hasUnit (.bank .ram32k) :=
  ⟨by decide, by decide, rfl, rfl⟩

theorem witness_BusValueMsbFirst : (0 < 3 ∧ (Bus.ofBitVec 4#3)[0]? = some 1) ∧
    (2 < 3 ∧ (Bus.ofBitVec 1#3)[2]? = some 1) := by decide

/-- RAM8 has no rest, RAM64's is its last three bits. -/
theorem witness_AddressSplit : (2 < 3 ∧ (top3 0 1#3).getMsbD 2 = true) ∧
    (0 < 3 * 1 ∧ (rest 1 4#6).getMsbD 0 = true) ∧ (1 < 2 ∧ (top2 0x1000#14).getMsbD 1 = true) ∧
    (11 < 12 ∧ (rest12 1#14).getMsbD 11 = true) := by decide

theorem witness_DecodeEnableLines : (demux8 true 7#3)[7] = true ∧ (demux8 true 0#3)[0] = true := by
  decide

theorem witness_EveryChildTicks :
    (demux8 true (top3 0 1#3))[0] = false ∧ (demux8 false (top3 0 1#3))[1] = false ∧
    Bank.Complementary 0 plain.ram8[0] := by
  refine ⟨by decide, by decide, ?_⟩
  exact plain_complementary.ram8 0

/-- Two banks and two RAM16K states built at different latch numbers. -/
theorem witness_ContentsDetermineBank :
    (Bank.Complementary 1 (Bank.construct .zero 1 0) ∧ Bank.Complementary 1 plain.ram8 ∧
      ∀ x, Bank.contents 1 (Bank.construct .zero 1 0) x = Bank.contents 1 plain.ram8 x) ∧
    (TopUnit.ram16k ⟨Vector.replicate 4 plain.ram4k⟩).Complementary :=
  ⟨⟨Bank.construct_complementary 1 0, plain_complementary.ram8, fun _ => rfl⟩, fun i => by
    simpa using plain_complementary.ram4k⟩

/-- Every bank is in one of the two machines: what the statements over all banks ask. -/
theorem witness_hasBank :
    (State.reset.hasBank .ram8 ∧ State.reset.hasBank .ram64 ∧ State.reset.hasBank .ram512) ∧
    (State.reset.hasBank .ram4k ∧ State.reset.hasBank .ram16k ∧ wide.hasBank .ram32k) :=
  ⟨⟨trivial, trivial, trivial⟩, trivial, rfl, rfl⟩

theorem witness_BankTickLaw : State.reset.hasBank .ram16k ∧
    (Bank.Complementary 1 plain.ram8 ∧ ∀ x, Bank.contents 1 plain.ram8 x = Bank.contents 1 plain.ram8 x) :=
  ⟨rfl, plain_complementary.ram8, fun _ => rfl⟩

theorem witness_LastWriteIsRead : State.reset.hasBank .ram16k ∧
    lastWritten 5#14 (some 0) [(7#16, 5#14, true), (9#16, 6#14, true), (8#16, 5#14, false)] =
      some 7#16 := ⟨rfl, by decide⟩

theorem witness_WriteThenRead : wide.hasBank .ram32k := rfl

theorem witness_WritesAreIsolated : State.reset.hasBank .ram64 ∧ 1#6 ≠ 9#6 := ⟨trivial, by decide⟩

theorem witness_ValuesPersist : State.reset.hasBank .ram8 ∧
    exec (bankOperation .ram8 (Bus.ofBitVec 0xFFFF#16) (Bus.ofBitVec 7#3) true) State.reset =
      .next (State.reset.putRam8 (bankTick 1 State.reset.ram8 0xFFFF#16 7#3 true)) :=
  ⟨trivial, by rw [exec_bankOperation, tickBankPorts_ofBitVec, tickBank_ram8]⟩

theorem witness_ReadsChangeNothing : plain.hasBank .ram4k ∧ plain.CellsComplementary :=
  ⟨trivial, plain_complementary⟩

theorem witness_LoadsWriteThrough : State.reset.hasBank .ram512 := trivial

theorem witness_TickChangesOwnUnitOnly :
    exec .latchSet State.reset = .next (State.reset.putLatch ⟨true, false⟩) ∧
    ¬ SharesStorage .bit Instr.latchSet.unit ∧
    ¬ SharesStorage (.bank .ram8) Instr.latchSet.unit :=
  ⟨rfl, (fun h => nomatch (show UnitName.bit = UnitName.latch from h)),
    (fun h => nomatch (show UnitName.bank .ram8 = UnitName.latch from h))⟩

/-- Two machines that agree on the latch and differ elsewhere. -/
theorem witness_TickReadsOwnUnitOnly :
    SameUnit Instr.latchHold.unit State.reset { State.reset with gff := ⟨true, true⟩ } ∧
    exec .latchHold State.reset = .next (State.reset.putLatch State.reset.latch) :=
  ⟨rfl, rfl⟩

theorem witness_WellFormedOperationsComplete :
    (Instr.ram32kWrite (ones 16) (ones 15)).wellFormed = true ∧
    wide.hasUnit (Instr.ram32kWrite (ones 16) (ones 15)).unit :=
  ⟨by decide, rfl⟩

theorem witness_InvalidStateOnlyFromLatchBoth :
    exec .latchBoth State.reset = .next (State.reset.putLatch ⟨false, false⟩) ∧
    (State.reset.putLatch ⟨false, false⟩).latch = ⟨false, false⟩ ∧
    State.reset.latch ≠ ⟨false, false⟩ ∧ Complementary State.reset.gff :=
  ⟨rfl, rfl, by decide, rfl⟩

/-- A request that passes the invalid state to the latch. -/
theorem witness_StepRunsDecoded :
    (asking [.call (.latch 0 0 (some ⟨false, false⟩))]).requests =
      .call (.latch 0 0 (some ⟨false, false⟩)) :: [] ∧
    decodeRequest (.call (.latch 0 0 (some ⟨false, false⟩))) = .ok .latchHold := ⟨rfl, rfl⟩

theorem witness_StepRunsEncoded :
    (Instr.ram8Write (ones 16) [1, 1, 1]).wellFormed = true ∧
    (asking [.vector (.bank .ram8) (encode (.ram8Write (ones 16) [1, 1, 1]))]).requests =
      .vector (Instr.ram8Write (ones 16) [1, 1, 1]).unit (encode (.ram8Write (ones 16) [1, 1, 1])) :: [] :=
  ⟨by decide, rfl⟩

theorem witness_StepStopsOnMalformedVector :
    (asking [.vector .latch [1]]).requests = .vector .latch [1] :: [] ∧
    Bus.allBits [1] = true ∧ ([1] : Bus).length ≠ UnitName.latch.formatWidth :=
  ⟨rfl, by decide, by decide⟩

theorem witness_StepsTakeRequestsInOrder :
    (asking [.call (.latch 1 0 none), .call (.latch 0 0 none)]).requests =
      .call (.latch 1 0 none) :: [.call (.latch 0 0 none)] ∧
    (∃ t, step (asking [.call (.latch 1 0 none), .call (.latch 0 0 none)]) = .next t) ∧
    State.reset.requests = [] := ⟨rfl, ⟨_, rfl⟩, rfl⟩

/-- A machine whose cells are complementary and whose next request is a RAM8 write. -/
theorem witness_StepKeepsCellsComplementary :
    State.CellsComplementary { plain with requests := [.vector (.bank .ram8) (ones 20)] } ∧
    ∃ t, step { plain with requests := [.vector (.bank .ram8) (ones 20)] } = .next t :=
  ⟨⟨plain_complementary.bit, plain_complementary.reg16, plain_complementary.ram8,
    plain_complementary.ram64, plain_complementary.ram512, plain_complementary.ram4k,
    plain_complementary.top⟩, ⟨_, rfl⟩⟩

theorem witness_StepKeepsShape :
    (∃ t, step (asking [.vector (.bank .ram16k) (ones 31)]) = .next t) ∧
    (asking [.vector (.bank .ram16k) (ones 31)]).hasUnit (.bank .ram16k) := ⟨⟨_, rfl⟩, rfl⟩

/-- A BIT whose cell starts non-complementary, as only `INIT_POLICY = UNSPECIFIED` can leave it. -/
theorem witness_FirstTickMakesComplementary :
    ∃ t, exec (.bitHold 1) { State.reset with bit := ⟨⟨true, true⟩⟩ } = .next t := ⟨_, rfl⟩

theorem witness_ConstructionValues :
    (State.construct .zero .ram16k4way).hasBank .ram16k ∧
    (State.construct .zero .ram32k8way).hasBank .ram32k ∧
    ((State.construct .unspecified .none).hasBank .ram8 ∧ 7 < 2 ^ BankName.ram8.addressWidth ∧
      ¬ 8 < 2 ^ BankName.ram8.addressWidth) ∧
    ((State.construct .unspecified .ram16k4way).hasBank .ram16k ∧
      16383 < 2 ^ BankName.ram16k.addressWidth) ∧
    ((State.construct .unspecified .ram32k8way).hasBank .ram32k ∧
      32767 < 2 ^ BankName.ram32k.addressWidth) :=
  ⟨rfl, rfl, ⟨trivial, by decide, by decide⟩, ⟨rfl, by decide⟩, rfl, by decide⟩

/-- Both faults at once: a non-Bit and a wrong width, a non-Bit and a bank not built (RAM32K at reset),
and a wrong width and a bank not built. -/
theorem witness_OrderOfStops :
    ((Instr.ram8Read (zeros 15) [0, 2, 0]).bitsOnly = false ∧
      (Instr.ram8Read (zeros 15) [0, 2, 0]).widthsOk = false) ∧
    ((Instr.ram32kRead (zeros 16) (zeros 14 ++ [2])).bitsOnly = false ∧
      State.reset.top.kind ≠ .ram32k8way) ∧
    ((Instr.ram32kRead (zeros 16) (zeros 14)).bitsOnly = true ∧
      (Instr.ram32kRead (zeros 16) (zeros 14)).widthsOk = false) ∧
    ((asking [.vector .latch [2]]).requests = .vector .latch [2] :: [] ∧
      (Request.vector .latch [2]).bitsOnly = false) ∧
    ((asking [.vector .latch [1]]).requests = .vector .latch [1] :: [] ∧
      (Request.vector .latch [1]).bitsOnly = true ∧ (Request.vector .latch [1]).widthsOk = false) ∧
    (Bus.allBits (zeros 15) = true ∧ Bus.allBits (zeros 14) = true ∧
      (zeros 15).length ≠ 16 ∧ (zeros 14).length = BankName.ram16k.addressWidth ∧
      (zeros 16).length = 16 ∧ (zeros 14).length ≠ BankName.ram32k.addressWidth) := by decide

theorem witness_CallsSelectOperations :
    (Call.bank .ram32k (ones 16) (ones 15) 1).widthsOk = true ∧
    (Call.mux8x16 (List.replicate 8 (ones 16)) (ones 3)).widthsOk = true := by decide

end Sys2Proof.Tests
end

section
/-! SUPPORT. Proofs of the statements of 00_scope.md: the reading of a bus (R9, R10), what a tick reads
(R12, R22), the units a machine admits (R7) and what a step runs (R5, R14, R17). -/
namespace Sys2Proof

/-! Reading a bus most significant bit first. -/

/-- Position j of the bus of a number is the number's bit of weight 2^(w-1-j) (R10). -/
theorem Bus.getElem?_ofNat {w j : Nat} (n : Nat) (h : j < w) :
    (Bus.ofNat w n)[j]? = some (n / 2 ^ (w - 1 - j) % 2) := by
  induction w generalizing j with
  | zero => omega
  | succ w ih =>
    cases j with
    | zero => simp [Bus.ofNat]
    | succ j =>
      have e : w + 1 - 1 - (j + 1) = w - 1 - j := by omega
      rw [Bus.ofNat, List.getElem?_cons_succ, ih (by omega), e]

/-- Position j of the bus of a checked value carries that value's bit j, counted from the most
significant (R10). -/
theorem Bus.getElem?_ofBitVec {w j : Nat} (v : BitVec w) (h : j < w) :
    (Bus.ofBitVec v)[j]? = some (Port.ofBit (v.getMsbD j)) := by
  have hbit : Port.ofBit (v.getMsbD j) = v.toNat / 2 ^ (w - 1 - j) % 2 := by
    simp only [Port.ofBit, BitVec.getMsbD, h, decide_true, Bool.true_and, BitVec.getLsbD]
    exact Nat.toNat_testBit _ _
  rw [Bus.ofBitVec, Bus.getElem?_ofNat _ h, hbit]

namespace Machine

theorem busVal_ofBitVec {w : Nat} (v : BitVec w) : busVal (Bus.ofBitVec v) = v.toNat := by
  rw [Bus.ofBitVec, busVal_ofNat, Nat.mod_eq_of_lt v.isLt]

/-- The recursion of `busVal` is R10's sum: the first position has the greatest weight, and each later
one keeps its weight when the first is taken off. -/
theorem busVal_eq_sum (b : Bus) :
    busVal b = ∑ j ∈ Finset.range b.length, b.getD j 0 * 2 ^ (b.length - 1 - j) := by
  induction b with
  | nil => rfl
  | cons x xs ih =>
    have e (j : Nat) : xs.length + 1 - 1 - (j + 1) = xs.length - 1 - j := by omega
    rw [List.length_cons, Finset.sum_range_succ', busVal, ih, Nat.add_comm]
    simp only [List.getD_cons_succ, e]
    rfl

/-! What a tick reads. -/

/-- A tick reads no state but that of unit u: on two machines that agree on u it answers alike, with the
same value returned and the same new state of u (R12, R22). -/
def ReadsOnly (u : UnitName) (tick : State → Result) : Prop :=
  ∀ s s' t, SameUnit u s s' → tick s = .next t →
    ∃ t', tick s' = .next t' ∧ t'.output = t.output ∧ SameUnit u t t'

/-- A tick that answers a next state on every machine reads only u if that next state's output and u
depend on u alone. -/
theorem readsOnly_next {u : UnitName} {f : State → State}
    (h : ∀ s s', SameUnit u s s' → (f s').output = (f s).output ∧ SameUnit u (f s) (f s')) :
    ReadsOnly u fun s => .next (f s) := by
  rintro s s' t hu ht
  obtain rfl : f s = t := by simpa using ht
  exact ⟨f s', rfl, h s s' hu⟩

/-- The port check looks at the ports and at no state. -/
theorem ReadsOnly.withPorts {u : UnitName} {tick : State → Result} (h : ReadsOnly u tick)
    (v : UnitName) (cs : List PortCheck) : ReadsOnly u fun s => withPorts v cs (tick s) := by
  intro s s' t hu ht
  have pass (r : Result) : Machine.withPorts v cs r = r := by
    rcases withPorts_cases v cs (tick s) with ⟨p, x, -, -, e⟩ | ⟨p, n, -, -, e⟩ | ⟨hb, hw, -⟩
    · cases e.symm.trans ht
    · cases e.symm.trans ht
    · simp only [Machine.withPorts, hb, hw]
  simp only [pass] at ht ⊢
  exact h s s' t hu ht

theorem tickLatch_readsOnly (set reset : Bit) : ReadsOnly .latch (tickLatch set reset) :=
  readsOnly_next fun s s' (h : s.latch = s'.latch) => by simp [SameUnit, h]

theorem tickGff_readsOnly (d : Port) (e : Bit) : ReadsOnly .gff (tickGff d e) :=
  .withPorts (u := .gff) (readsOnly_next fun s s' (h : s.gff = s'.gff) => by simp [SameUnit, h]) _ _

theorem tickBit_readsOnly (i : Port) (l : Bit) : ReadsOnly .bit (tickBit i l) :=
  .withPorts (u := .bit) (readsOnly_next fun s s' (h : s.bit = s'.bit) => by simp [SameUnit, h]) _ _

theorem tickReg16_readsOnly (i : Bus) (l : Bit) : ReadsOnly .reg16 (tickReg16 i l) :=
  .withPorts (u := .reg16) (readsOnly_next fun s s' (h : s.reg16 = s'.reg16) => by simp [SameUnit, h]) _ _

/-- A bank's tick reads its own words; of the two top banks this includes whether `TOP_BANK` has built
the bank at all. -/
theorem tickBank_readsOnly (b : BankName) (v : Word) (a : BitVec b.addressWidth) (l : Bit) :
    ReadsOnly (.bank b) (tickBank b v a l) := by
  cases b with
  | ram8 => exact readsOnly_next fun s s' (h : s.ram8 = s'.ram8) => by simp [SameUnit, h]
  | ram64 => exact readsOnly_next fun s s' (h : s.ram64 = s'.ram64) => by simp [SameUnit, h]
  | ram512 => exact readsOnly_next fun s s' (h : s.ram512 = s'.ram512) => by simp [SameUnit, h]
  | ram4k => exact readsOnly_next fun s s' (h : s.ram4k = s'.ram4k) => by simp [SameUnit, h]
  | ram16k =>
    intro s s' t (h : s.top = s'.top) ht
    obtain ⟨r, hr⟩ := (hasBank_ram16k s).1 (tickBank_next ht)
    rw [tickBank_ram16k s hr] at ht
    cases ht
    exact ⟨_, tickBank_ram16k s' (h ▸ hr) v a l, rfl, rfl⟩
  | ram32k =>
    intro s s' t (h : s.top = s'.top) ht
    obtain ⟨r, hr⟩ := (hasBank_ram32k s).1 (tickBank_next ht)
    rw [tickBank_ram32k s hr] at ht
    cases ht
    exact ⟨_, tickBank_ram32k s' (h ▸ hr) v a l, rfl, rfl⟩

theorem tickBankPorts_readsOnly (b : BankName) (i a : Bus) (l : Bit) :
    ReadsOnly (.bank b) (tickBankPorts b i a l) :=
  (tickBank_readsOnly b _ _ l).withPorts _ _

theorem SameUnit.putOutput {u : UnitName} {s s' : State} (h : SameUnit u s s') (o : Output) :
    SameUnit u (s.putOutput o) (s'.putOutput o) := by
  cases u with
  | bank b => cases b <;> exact h
  | _ => exact h

/-- A contract's value is made of its ports alone (R100). -/
theorem putOutput_readsOnly (u : UnitName) (cs : List PortCheck) (o : Output) :
    ReadsOnly u fun s => withPorts u cs (.next (s.putOutput o)) :=
  .withPorts (readsOnly_next fun _ _ h => ⟨rfl, h.putOutput o⟩) _ _

/-- Every operation is its unit's tick with the control bits of its row (R56), so it reads only that
unit. -/
theorem exec_readsOnly (i : Instr) : ReadsOnly i.unit (exec i) :=
  match i with
  | .latchHold => tickLatch_readsOnly false false
  | .latchReset => tickLatch_readsOnly false true
  | .latchSet => tickLatch_readsOnly true false
  | .latchBoth => tickLatch_readsOnly true true
  | .gffHold d => tickGff_readsOnly d false
  | .gffCommit d => tickGff_readsOnly d true
  | .bitHold x => tickBit_readsOnly x false
  | .bitLoad x => tickBit_readsOnly x true
  | .reg16Hold x => tickReg16_readsOnly x false
  | .reg16Load x => tickReg16_readsOnly x true
  | .ram8Read x a => tickBankPorts_readsOnly .ram8 x a false
  | .ram8Write x a => tickBankPorts_readsOnly .ram8 x a true
  | .ram64Read x a => tickBankPorts_readsOnly .ram64 x a false
  | .ram64Write x a => tickBankPorts_readsOnly .ram64 x a true
  | .ram512Read x a => tickBankPorts_readsOnly .ram512 x a false
  | .ram512Write x a => tickBankPorts_readsOnly .ram512 x a true
  | .ram4kRead x a => tickBankPorts_readsOnly .ram4k x a false
  | .ram4kWrite x a => tickBankPorts_readsOnly .ram4k x a true
  | .ram16kRead x a => tickBankPorts_readsOnly .ram16k x a false
  | .ram16kWrite x a => tickBankPorts_readsOnly .ram16k x a true
  | .ram32kRead x a => tickBankPorts_readsOnly .ram32k x a false
  | .ram32kWrite x a => tickBankPorts_readsOnly .ram32k x a true
  | .mux2 _ _ _ => putOutput_readsOnly .mux2 _ _
  | .demux8 _ _ => putOutput_readsOnly .demux8 _ _
  | .mux8x16 _ _ => putOutput_readsOnly .mux8x16 _ _
  | .demux4 _ _ => putOutput_readsOnly .demux4 _ _
  | .mux4x16 _ _ => putOutput_readsOnly .mux4x16 _ _

/-! The banks a machine admits. -/

/-- A bank the machine has answers a next state (R7, D23): the other half of `tickBank_not_built`. -/
theorem tickBank_built {s : State} {b : BankName} (h : s.hasBank b) (v : Word)
    (a : BitVec b.addressWidth) (l : Bit) : ∃ t, tickBank b v a l s = .next t := by
  cases b with
  | ram16k =>
    obtain ⟨r, hr⟩ := (hasBank_ram16k s).1 h
    exact ⟨_, tickBank_ram16k s hr v a l⟩
  | ram32k =>
    obtain ⟨r, hr⟩ := (hasBank_ram32k s).1 h
    exact ⟨_, tickBank_ram32k s hr v a l⟩
  | _ => exact ⟨_, rfl⟩

/-- A bank operation whose ports fit is its bank's tick with its load (R56, R58). -/
theorem exec_bankOperation_ofBitVec (s : State) (b : BankName) (v : Word)
    (a : BitVec b.addressWidth) (l : Bit) :
    exec (bankOperation b (Bus.ofBitVec v) (Bus.ofBitVec a) l) s = tickBank b v a l s := by
  rw [exec_bankOperation, tickBankPorts_ofBitVec]

/-- READ and WRITE of one bank, with ports that fit, are refused exactly where the machine lacks the
bank. -/
theorem bankOperation_admitted (s : State) (b : BankName) (v : Word) (a : BitVec b.addressWidth)
    (l : Bit) :
    (¬ s.hasBank b → exec (bankOperation b (Bus.ofBitVec v) (Bus.ofBitVec a) l) s =
      .refused (.unitNotBuilt (.bank b))) ∧
    (s.hasBank b → ∃ t, exec (bankOperation b (Bus.ofBitVec v) (Bus.ofBitVec a) l) s = .next t) := by
  rw [exec_bankOperation_ofBitVec]
  exact ⟨fun h => tickBank_not_built s h v a l, fun h => tickBank_built h v a l⟩

/-- Settles O25: the sum by induction on the bus, the positions by induction on the width. -/
theorem busValueMsbFirst : Obligations.BusValueMsbFirst :=
  ⟨busVal_eq_sum, fun _ v => ⟨busVal_ofBitVec v, fun _ h => Bus.getElem?_ofBitVec v h⟩⟩

/-- Settles O38: every operation is its own unit's tick, and every such tick reads only that unit. -/
theorem tickReadsOwnUnitOnly : Obligations.TickReadsOwnUnitOnly :=
  exec_readsOnly

/-- Settles O14: for each of the two top banks, READ and WRITE are admitted where the bank is built. -/
theorem topBankAdmits : Obligations.TopBankAdmits := by
  intro s v
  refine ⟨fun a => ?_, fun a => ?_⟩
  · have read := bankOperation_admitted s .ram16k v a false
    have write := bankOperation_admitted s .ram16k v a true
    exact ⟨fun h => ⟨read.1 h, write.1 h⟩, fun h => ⟨read.2 h, write.2 h⟩⟩
  · have read := bankOperation_admitted s .ram32k v a false
    have write := bankOperation_admitted s .ram32k v a true
    exact ⟨fun h => ⟨read.1 h, write.1 h⟩, fun h => ⟨read.2 h, write.2 h⟩⟩

/-- Settles O42: a step with a request left (`step_cons`) and a request that decodes; what each form of
request delivers is `State.deliver`'s own case. -/
theorem stepRunsDecoded : Obligations.StepRunsDecoded := by
  refine ⟨fun s r rs i hs hd => ?_, fun s a b p => ⟨rfl, rfl, rfl, rfl⟩,
    fun s a b c i t o n => ⟨rfl, rfl, rfl, rfl, rfl, rfl, rfl, rfl⟩, State.deliver_vector⟩
  rw [step_cons s hs, hd]

end Machine

end Sys2Proof
end

section
/-! SUPPORT. Proofs of the statements of 10_state.md: what one tick changes (R22), the complement of the
cells inside BIT, REG16 and the banks (R29), and what construction leaves (R31). -/
namespace Sys2Proof

/-- The combinational contracts: the units that hold no state (R100). -/
def UnitName.IsContract : UnitName → Prop
  | .mux2 | .demux8 | .mux8x16 | .demux4 | .mux4x16 => True
  | _ => False

namespace Machine

/-! What one tick can do. -/

/-- Everything a tick of a unit can turn `s` into: the unit's own state goes through its tick function, or,
for a contract, only a value goes back to the driver (R22, R100). -/
inductive UnitTick (s : State) : UnitName → State → Prop
  | latch (set reset : Bit) : UnitTick s .latch (s.putLatch (Machine.latch set reset s.latch))
  | gff (data enable : Bit) : UnitTick s .gff (s.putGff (gatedFlipFlop data enable s.gff))
  | bit (input load : Bit) : UnitTick s .bit (s.putBit (bitTick s.bit input load))
  | reg16 (v : Word) (load : Bit) : UnitTick s .reg16 (s.putReg16 (reg16Tick s.reg16 v load))
  | ram8 (v : Word) (a : BitVec 3) (load : Bit) :
    UnitTick s (.bank .ram8) (s.putRam8 (bankTick 1 s.ram8 v a load))
  | ram64 (v : Word) (a : BitVec 6) (load : Bit) :
    UnitTick s (.bank .ram64) (s.putRam64 (bankTick 2 s.ram64 v a load))
  | ram512 (v : Word) (a : BitVec 9) (load : Bit) :
    UnitTick s (.bank .ram512) (s.putRam512 (bankTick 3 s.ram512 v a load))
  | ram4k (v : Word) (a : BitVec 12) (load : Bit) :
    UnitTick s (.bank .ram4k) (s.putRam4k (bankTick 4 s.ram4k v a load))
  | ram16k {r : Ram16k} (built : s.top = .ram16k r) (v : Word) (a : BitVec 14) (load : Bit) :
    UnitTick s (.bank .ram16k)
      (s.putTop (.ram16k (ram16kTick r v a load).1, (ram16kTick r v a load).2))
  | ram32k {r : Bank 5} (built : s.top = .ram32k r) (v : Word) (a : BitVec 15) (load : Bit) :
    UnitTick s (.bank .ram32k)
      (s.putTop (.ram32k (bankTick 5 r v a load).1, (bankTick 5 r v a load).2))
  | contract {u : UnitName} (hu : u.IsContract) (o : Output) : UnitTick s u (s.putOutput o)

section
variable {s t : State}

theorem tickLatch_unitTick {set reset : Bit} (h : tickLatch set reset s = .next t) :
    UnitTick s .latch t := by
  cases h
  exact .latch set reset

theorem tickGff_unitTick {d : Port} {e : Bit} (h : tickGff d e s = .next t) : UnitTick s .gff t := by
  cases withPorts_next h
  exact .gff _ e

theorem tickBit_unitTick {i : Port} {l : Bit} (h : tickBit i l s = .next t) : UnitTick s .bit t := by
  cases withPorts_next h
  exact .bit _ l

theorem tickReg16_unitTick {i : Bus} {l : Bit} (h : tickReg16 i l s = .next t) :
    UnitTick s .reg16 t := by
  cases withPorts_next h
  exact .reg16 _ l

theorem tickBank_unitTick {b : BankName} {v : Word} {a : BitVec b.addressWidth} {l : Bit}
    (h : tickBank b v a l s = .next t) : UnitTick s (.bank b) t := by
  have built := tickBank_next h
  cases b with
  | ram8 => cases h; exact .ram8 v a l
  | ram64 => cases h; exact .ram64 v a l
  | ram512 => cases h; exact .ram512 v a l
  | ram4k => cases h; exact .ram4k v a l
  | ram16k =>
    obtain ⟨r, hr⟩ := (hasBank_ram16k s).1 built
    cases (tickBank_ram16k s hr v a l).symm.trans h
    exact .ram16k hr v a l
  | ram32k =>
    obtain ⟨r, hr⟩ := (hasBank_ram32k s).1 built
    cases (tickBank_ram32k s hr v a l).symm.trans h
    exact .ram32k hr v a l

theorem tickBankPorts_unitTick {b : BankName} {i a : Bus} {l : Bit}
    (h : tickBankPorts b i a l s = .next t) : UnitTick s (.bank b) t :=
  tickBank_unitTick (withPorts_next h)

theorem putOutput_unitTick {u : UnitName} (hu : u.IsContract) {cs : List PortCheck} {o : Output}
    (h : withPorts u cs (.next (s.putOutput o)) = .next t) : UnitTick s u t := by
  cases withPorts_next h
  exact .contract hu o

/-- An operation that answers a next state has made one tick of its own unit (R56). -/
theorem exec_unitTick {i : Instr} (h : exec i s = .next t) : UnitTick s i.unit t :=
  match i with
  | .latchHold | .latchReset | .latchSet | .latchBoth => tickLatch_unitTick h
  | .gffHold _ | .gffCommit _ => tickGff_unitTick h
  | .bitHold _ | .bitLoad _ => tickBit_unitTick h
  | .reg16Hold _ | .reg16Load _ => tickReg16_unitTick h
  | .ram8Read _ _ | .ram8Write _ _ | .ram64Read _ _ | .ram64Write _ _
  | .ram512Read _ _ | .ram512Write _ _ | .ram4kRead _ _ | .ram4kWrite _ _
  | .ram16kRead _ _ | .ram16kWrite _ _ | .ram32kRead _ _ | .ram32kWrite _ _ =>
    tickBankPorts_unitTick h
  | .mux2 _ _ _ | .demux8 _ _ | .mux8x16 _ _ | .demux4 _ _ | .mux4x16 _ _ =>
    putOutput_unitTick trivial h

/-- A request that selects no operation has no next state (R59, R107). -/
theorem decodeStop_ne_next (e : DecodeError) (t : State) : decodeStop e ≠ .next t := by
  cases e <;> rintro ⟨⟩

/-- Everything a step that answers a next state can do: with no request left it changes nothing, and else
it runs the operation that the first request selects (R14, log entry 6). -/
theorem step_next_cases (h : step s = .next t) :
    (s.requests = [] ∧ t = s) ∨
    ∃ r rs i, s.requests = r :: rs ∧ decodeRequest r = .ok i ∧
      exec i (State.deliver { s with requests := rs } r) = .next t := by
  cases hs : s.requests with
  | nil =>
    simp only [step, (State.fetch_none_iff s).2 hs] at h
    exact .inl ⟨rfl, by cases h; rfl⟩
  | cons r rs =>
    rw [step_cons s hs] at h
    cases hd : decodeRequest r with
    | ok i => exact .inr ⟨r, rs, i, rfl, hd, by rwa [hd] at h⟩
    | error e =>
      rw [hd] at h
      exact absurd h (decodeStop_ne_next e t)

/-! What a tick leaves unchanged (R22). -/

theorem SameUnit.refl (u : UnitName) (s : State) : SameUnit u s s := by
  cases u with
  | bank b => cases b <;> rfl
  | _ => simp [SameUnit]

/-- A tick changes no unit that is stored apart from its own. -/
theorem UnitTick.sameUnit {u v : UnitName} (h : UnitTick s u t) (hv : ¬ SharesStorage v u) :
    SameUnit v s t := by
  cases h with
  | contract => exact SameUnit.refl v s
  | _ =>
    revert hv
    cases v with
    | bank b => cases b <;> simp [SharesStorage, SameUnit]
    | _ => simp [SharesStorage, SameUnit]

theorem UnitTick.requests_eq {u : UnitName} (h : UnitTick s u t) : t.requests = s.requests := by
  cases h <;> rfl

/-- A bank's words are read from the bank's own state. -/
theorem SameUnit.memRead_eq {b : BankName} (h : SameUnit (.bank b) s t) (x : Nat) :
    t.memRead b x = s.memRead b x := by
  cases b <;> simp only [SameUnit] at h <;> simp only [State.memRead, h]

/-! The complement of the cells (R29). -/

/-- A tick makes the cells of its own unit complementary. -/
theorem UnitTick.complementary {u : UnitName} (h : UnitTick s u t) : UnitComplementary u t := by
  cases h with
  | latch => trivial
  | gff => trivial
  | bit i l => exact bitTick_complementary _ i l
  | reg16 v l => exact reg16Tick_complementary _ v l
  | ram8 v a l => exact bankTick_complementary 1 _ v a l
  | ram64 v a l => exact bankTick_complementary 2 _ v a l
  | ram512 v a l => exact bankTick_complementary 3 _ v a l
  | ram4k v a l => exact bankTick_complementary 4 _ v a l
  | ram16k _ v a l => exact ram16kTick_complementary _ v a l
  | ram32k _ v a l => exact bankTick_complementary 5 _ v a l
  | contract hu => cases u <;> trivial

/-- R29's invariant, unit by unit. -/
theorem State.cellsComplementary_iff : s.CellsComplementary ↔ ∀ u, UnitComplementary u s := by
  constructor
  · rintro ⟨bit, reg16, ram8, ram64, ram512, ram4k, top⟩ u
    cases u with
    | bank b => cases b <;> assumption
    | bit => exact bit
    | reg16 => exact reg16
    | _ => trivial
  · exact fun h => ⟨h .bit, h .reg16, h (.bank .ram8), h (.bank .ram64), h (.bank .ram512),
      h (.bank .ram4k), h (.bank .ram16k)⟩

/-- Units that hold the same state are complementary together. -/
theorem SameUnit.complementary {u : UnitName} (h : SameUnit u s t) (hs : UnitComplementary u s) :
    UnitComplementary u t := by
  cases u with
  | bank b =>
    cases b <;> simp only [SameUnit] at h <;> simp only [UnitComplementary, ← h] <;> exact hs
  | bit | reg16 => simp only [SameUnit] at h; simp only [UnitComplementary, ← h]; exact hs
  | _ => trivial

/-- Two names of one stored unit speak of the same cells. -/
theorem UnitComplementary.of_sharesStorage {u v : UnitName} (h : SharesStorage u v)
    (hv : UnitComplementary v t) : UnitComplementary u t := by
  unfold SharesStorage at h
  split at h
  · exact hv
  · exact hv
  · exact h ▸ hv

/-- A tick keeps R29's invariant: the unit ticked is complementary whatever it was, and every unit stored
apart from it is as before. -/
theorem UnitTick.cellsComplementary {u : UnitName} (h : UnitTick s u t)
    (hs : s.CellsComplementary) : t.CellsComplementary := by
  rw [State.cellsComplementary_iff] at hs ⊢
  intro v
  by_cases hv : SharesStorage v u
  · exact h.complementary.of_sharesStorage hv
  · exact (h.sameUnit hv).complementary (hs v)

/-- Taking the request off and delivering its LatchState touches no cell that R29 speaks of. -/
theorem State.CellsComplementary.deliver (hs : s.CellsComplementary) (r : Request)
    (rs : List Request) : (State.deliver { s with requests := rs } r).CellsComplementary := by
  obtain ⟨bit, reg16, ram8, ram64, ram512, ram4k, top⟩ := hs
  constructor <;> simpa

end

/-! Construction (R31). -/

theorem TopUnit.kind_construct (p : InitPolicy) (t : TopBank) (base : Nat) :
    (TopUnit.construct p t base).kind = t := by
  cases t <;> rfl

theorem TopUnit.construct_complementary (t : TopBank) (base : Nat) :
    (TopUnit.construct .zero t base).Complementary := by
  cases t with
  | ram16k4way =>
    intro i
    simp only [Fin.getElem_fin, Vector.getElem_ofFn]
    exact Bank.construct_complementary 4 _
  | ram32k8way => exact Bank.construct_complementary 5 base
  | none => trivial

/-- Construction under `INIT_POLICY = ZERO` meets R29's invariant, whatever the `TOP_BANK`. -/
theorem State.construct_complementary (t : TopBank) :
    (State.construct .zero t).CellsComplementary :=
  { State.construct_none_complementary with top := TopUnit.construct_complementary t _ }

/-- The 16-bit register that is the word at address x of a level-k bank, at its place in the tree (R20);
none outside the bank. -/
def Bank.register : (k : Nat) → Bank k → Nat → Option Reg16
  | 0, r, x => if x = 0 then some r else none
  | k + 1, s, x => if h : x / 8 ^ k < 8 then Bank.register k (s[x / 8 ^ k]'h) (x % 8 ^ k) else none

/-- The 16-bit register that is the word at address x of RAM16K (R88). -/
def Ram16k.register (s : Ram16k) (x : Nat) : Option Reg16 :=
  if h : x / 4096 < 4 then Bank.register 4 (s.child[x / 4096]'h) (x % 4096) else none

/-- The 16-bit register that is the word at address x of a bank of the machine. -/
def State.memRegister (s : State) (b : BankName) (x : Nat) : Option Reg16 :=
  match b with
  | .ram8 => Bank.register 1 s.ram8 x
  | .ram64 => Bank.register 2 s.ram64 x
  | .ram512 => Bank.register 3 s.ram512 x
  | .ram4k => Bank.register 4 s.ram4k x
  | .ram16k => match s.top with
    | .ram16k r => r.register x
    | _ => none
  | .ram32k => match s.top with
    | .ram32k r => Bank.register 5 r x
    | _ => none

/-- The word read at an address is its register's value (R40). -/
theorem Bank.contents_eq_register (k : Nat) (s : Bank k) (x : Nat) :
    Bank.contents k s x = (Bank.register k s x).map Reg16.value := by
  induction k generalizing x with
  | zero => by_cases h : x = 0 <;> simp [Bank.contents, Bank.register, h]
  | succ k ih => by_cases h : x / 8 ^ k < 8 <;> simp [Bank.contents, Bank.register, h, ih]

/-- The cell of a lane at an address is that lane of its register. -/
theorem Bank.cell_eq_register (k : Nat) (s : Bank k) (x : Nat) (j : Fin 16) :
    Bank.cell k s x j = (Bank.register k s x).map (·.bit[j].cell) := by
  induction k generalizing x with
  | zero => by_cases h : x = 0 <;> simp [Bank.cell, Bank.register, h]
  | succ k ih => by_cases h : x / 8 ^ k < 8 <;> simp [Bank.cell, Bank.register, h, ih]

theorem Ram16k.contents_eq_register (s : Ram16k) (x : Nat) :
    s.contents x = (s.register x).map Reg16.value := by
  unfold Ram16k.contents Ram16k.register
  split
  · exact Bank.contents_eq_register 4 _ _
  · rfl

theorem Ram16k.cell_eq_register (s : Ram16k) (x : Nat) (j : Fin 16) :
    s.cell x j = (s.register x).map (·.bit[j].cell) := by
  unfold Ram16k.cell Ram16k.register
  split
  · exact Bank.cell_eq_register 4 _ _ j
  · rfl

theorem State.memRead_eq_register (s : State) (b : BankName) (x : Nat) :
    s.memRead b x = (s.memRegister b x).map Reg16.value := by
  cases b <;> cases h : s.top <;>
    simp [State.memRead, State.memRegister, h, Bank.contents_eq_register,
      Ram16k.contents_eq_register]

theorem State.memCell_eq_register (s : State) (b : BankName) (x : Nat) (j : Fin 16) :
    s.memCell b x j = (s.memRegister b x).map (·.bit[j].cell) := by
  cases b <;> cases h : s.top <;>
    simp [State.memCell, State.memRegister, h, Bank.cell_eq_register, Ram16k.cell_eq_register]

/-- Counting the latches before word x child by child (children of n words) or word by word is the same
(R21). -/
theorem drawNumber_child (base x n : Nat) :
    base + x / n * (16 * n) + 16 * (x % n) = base + 16 * x := by
  calc base + x / n * (16 * n) + 16 * (x % n) = base + 16 * (n * (x / n) + x % n) := by ring
    _ = base + 16 * x := by rw [Nat.div_add_mod]

/-- Word x of a freshly constructed bank is a freshly constructed register, its latches numbered after
those of the words before it (R31, log entry 3). -/
theorem Bank.register_construct (p : InitPolicy) (k base x : Nat) :
    Bank.register k (Bank.construct p k base) x =
      if x < 8 ^ k then some (Reg16.construct p (base + 16 * x)) else none := by
  induction k generalizing base x with
  | zero => by_cases h : x = 0 <;> simp [Bank.register, Bank.construct, h]
  | succ k ih =>
    have inside : x / 8 ^ k < 8 ↔ x < 8 ^ (k + 1) := by
      rw [Nat.div_lt_iff_lt_mul (Nat.pow_pos (by decide)), Nat.pow_succ, Nat.mul_comm]
    have hmod : x % 8 ^ k < 8 ^ k := Nat.mod_lt _ (Nat.pow_pos (by decide))
    by_cases h : x < 8 ^ (k + 1)
    · simp [Bank.register, Bank.construct, inside, h, ih, hmod, drawNumber_child]
    · simp [Bank.register, inside, h]

theorem Ram16k.register_construct (p : InitPolicy) (base x : Nat) :
    Ram16k.register { child := Vector.ofFn fun i => Bank.construct p 4 (base + i.val * (16 * 8 ^ 4)) } x =
      if x < 2 ^ 14 then some (Reg16.construct p (base + 16 * x)) else none := by
  have hmod : x % 4096 < 8 ^ 4 := Nat.mod_lt _ (by decide)
  unfold Ram16k.register
  split
  · rename_i h
    rw [if_pos (by omega), Vector.getElem_ofFn, Bank.register_construct, if_pos hmod]
    exact congrArg (fun n => some (Reg16.construct p n)) (drawNumber_child base x (8 ^ 4))
  · rw [if_neg (by omega)]

/-- Word x of every bank of a freshly constructed machine is a freshly constructed register, its latches
numbered from the bank's own base on (R31, log entry 3). -/
theorem State.memRegister_construct (p : InitPolicy) (t : TopBank) {b : BankName}
    (hb : (State.construct p t).hasBank b) (x : Nat) :
    (State.construct p t).memRegister b x =
      if x < 2 ^ b.addressWidth then some (Reg16.construct p (drawBase b + 16 * x)) else none := by
  cases b with
  | ram8 => exact Bank.register_construct p 1 19 x
  | ram64 => exact Bank.register_construct p 2 147 x
  | ram512 => exact Bank.register_construct p 3 1171 x
  | ram4k => exact Bank.register_construct p 4 9363 x
  | ram16k =>
    obtain rfl : t = .ram16k4way := (TopUnit.kind_construct p t 74899).symm.trans hb
    exact Ram16k.register_construct p 74899 x
  | ram32k =>
    obtain rfl : t = .ram32k8way := (TopUnit.kind_construct p t 74899).symm.trans hb
    exact Bank.register_construct p 5 74899 x

theorem Reg16.construct_cell (p : InitPolicy) (base : Nat) (j : Nat) (h : j < 16) :
    (Reg16.construct p base).bit[j].cell = initialCell p (base + j) := by
  simp [Reg16.construct]

/-- A freshly constructed register holds the q bits of its latches' construction values (R19, R31). -/
theorem Reg16.construct_value_eq (p : InitPolicy) (base : Nat) :
    (Reg16.construct p base).value =
      BitVec.ofFnBE fun j : Fin 16 => (initialCell p (base + j.val)).q := by
  simp [Reg16.value, Reg16.construct_cell]

/-- Every word of a freshly constructed bank reads the value of a freshly constructed register, and there
is no word outside the bank (R31, R32). -/
theorem State.memRead_construct (p : InitPolicy) (t : TopBank) {b : BankName}
    (hb : (State.construct p t).hasBank b) (x : Nat) :
    (State.construct p t).memRead b x =
      if x < 2 ^ b.addressWidth then some (Reg16.construct p (drawBase b + 16 * x)).value
      else none := by
  rw [State.memRead_eq_register, State.memRegister_construct p t hb]
  split <;> rfl

/-- Every cell of a freshly constructed bank has its construction value (R31). -/
theorem State.memCell_construct (p : InitPolicy) (t : TopBank) {b : BankName}
    (hb : (State.construct p t).hasBank b) (x : Nat) (j : Fin 16) :
    (State.construct p t).memCell b x j =
      if x < 2 ^ b.addressWidth then some (initialCell p (drawBase b + 16 * x + j.val)) else none := by
  rw [State.memCell_eq_register, State.memRegister_construct p t hb]
  split
  · simp [Reg16.construct_cell]
  · rfl

/-- Settles O46: a step with a request left is one tick of one unit, and a tick keeps the invariant. -/
theorem stepKeepsCellsComplementary : Obligations.StepKeepsCellsComplementary := by
  intro s t hs h
  obtain ⟨-, rfl⟩ | ⟨r, rs, i, -, -, hi⟩ := step_next_cases h
  · exact hs
  · exact (exec_unitTick hi).cellsComplementary (hs.deliver r rs)

/-- Settles O37: an operation is one tick of its own unit, and a bank's words are part of its unit. -/
theorem tickChangesOwnUnitOnly : Obligations.TickChangesOwnUnitOnly := by
  intro i s t h
  have tick := exec_unitTick h
  exact ⟨fun u hu => tick.sameUnit hu, fun b x hb => (tick.sameUnit hb).memRead_eq x,
    tick.requests_eq⟩

/-- Settles O48: each unit's tick makes its cells complementary, whatever they were. -/
theorem firstTickMakesComplementary : Obligations.FirstTickMakesComplementary :=
  fun _ _ _ h => (exec_unitTick h).complementary

/-- Settles O49: reset is construction under `INIT_POLICY = ZERO`. -/
theorem resetIsComplementary : Obligations.ResetIsComplementary :=
  ⟨State.construct_complementary _, State.construct_complementary⟩

/-- Settles O50: every word of a bank is a freshly constructed register, and each policy gives its
latches their values. -/
theorem constructionValues : Obligations.ConstructionValues := by
  refine ⟨⟨rfl, rfl, rfl, rfl, Reg16.construct_value 3, rfl, rfl⟩,
    fun p t => TopUnit.kind_construct p t 74899, fun t b x hb => ⟨?_, fun j => ?_⟩,
    fun t => ⟨rfl, rfl, rfl, fun j h => Reg16.construct_cell .unspecified 3 j h,
      fun b x hb hx => ⟨fun j => ?_, ?_⟩⟩⟩
  · rw [State.memRead_construct .zero t hb, Reg16.construct_value]
  · exact State.memCell_construct .zero t hb x j
  · rw [State.memCell_construct .unspecified t hb, if_pos hx]
    rfl
  · rw [State.memRead_construct .unspecified t hb, if_pos hx, Reg16.construct_value_eq]
    rfl

end Machine
end Sys2Proof
end

section
/-! SUPPORT. Proofs of the statements of 20_memory.md: the flattened law of a bank (R41), what follows from
it for sequences of reads and writes (R37, R42 to R45), and the order of the driver's requests (R46). -/
namespace Sys2Proof

namespace Machine

/-! The contents of a complementary bank determine its whole state (R41, R29). -/

/-- Word y of child i of a bank is the bank's word i * 8^k + y (R40). -/
theorem Bank.contents_child (k : Nat) (s : Bank (k + 1)) {i y : Nat} (hi : i < 8) (hy : y < 8 ^ k) :
    Bank.contents (k + 1) s (i * 8 ^ k + y) = Bank.contents k s[i] y := by
  have hpos : 0 < 8 ^ k := Nat.zero_lt_of_lt hy
  have hdiv : (i * 8 ^ k + y) / 8 ^ k = i := by
    rw [Nat.mul_comm, Nat.mul_add_div hpos, Nat.div_eq_of_lt hy, Nat.add_zero]
  have hmod : (i * 8 ^ k + y) % 8 ^ k = y := by rw [Nat.mul_add_mod_self_right, Nat.mod_eq_of_lt hy]
  rw [Bank.contents_succ k s _ (by rwa [hdiv])]
  simp only [hdiv, hmod]

/-- Word y of child i of RAM16K is its word i * 4096 + y (R40, R88). -/
theorem Ram16k.contents_child (s : Ram16k) {i y : Nat} (hi : i < 4) (hy : y < 4096) :
    s.contents (i * 4096 + y) = Bank.contents 4 s.child[i] y := by
  have hdiv : (i * 4096 + y) / 4096 = i := by omega
  have hmod : (i * 4096 + y) % 4096 = y := by omega
  rw [Ram16k.contents_of_lt s _ (by rwa [hdiv])]
  simp only [hdiv, hmod]

/-- Child by child down to the registers: two complementary banks with the same words are one bank. -/
theorem Bank.eq_of_contents_eq (k : Nat) {s t : Bank k} (hs : Bank.Complementary k s)
    (ht : Bank.Complementary k t) (h : ∀ x < 8 ^ k, Bank.contents k s x = Bank.contents k t x) :
    s = t := by
  induction k with
  | zero =>
    have value : Reg16.value s = Reg16.value t := by
      simpa [Bank.contents] using h 0 (by decide)
    exact Reg16.eq_of_value_eq hs ht value
  | succ k ih =>
    refine Vector.ext fun i hi => ih (hs ⟨i, hi⟩) (ht ⟨i, hi⟩) fun y hy => ?_
    have inside : i * 8 ^ k + y < 8 ^ (k + 1) := by
      have : (i + 1) * 8 ^ k ≤ 8 * 8 ^ k := Nat.mul_le_mul_right _ hi
      rw [Nat.pow_succ]
      linarith
    simpa only [Bank.contents_child k _ hi hy] using h _ inside

theorem Ram16k.eq_of_contents_eq {s t : Ram16k} (hs : (TopUnit.ram16k s).Complementary)
    (ht : (TopUnit.ram16k t).Complementary) (h : ∀ x, s.contents x = t.contents x) : s = t := by
  have child : s.child = t.child := by
    refine Vector.ext fun i hi =>
      Bank.eq_of_contents_eq 4 (hs ⟨i, hi⟩) (ht ⟨i, hi⟩) fun y hy => ?_
    simpa only [Ram16k.contents_child _ hi hy] using h (i * 4096 + y)
  exact congrArg Ram16k.mk child

/-- The words of a bank of the machine determine its unit, where the cells are complementary. -/
theorem SameUnit.of_memRead_eq {s t : State} {b : BankName} (bs : s.hasBank b) (bt : t.hasBank b)
    (cs : UnitComplementary (.bank b) s) (ct : UnitComplementary (.bank b) t)
    (h : ∀ x, s.memRead b x = t.memRead b x) : SameUnit (.bank b) s t := by
  cases b with
  | ram8 => exact Bank.eq_of_contents_eq 1 cs ct fun x _ => h x
  | ram64 => exact Bank.eq_of_contents_eq 2 cs ct fun x _ => h x
  | ram512 => exact Bank.eq_of_contents_eq 3 cs ct fun x _ => h x
  | ram4k => exact Bank.eq_of_contents_eq 4 cs ct fun x _ => h x
  | ram16k =>
    obtain ⟨r, hr⟩ := (hasBank_ram16k s).1 bs
    obtain ⟨r', hr'⟩ := (hasBank_ram16k t).1 bt
    simp only [UnitComplementary, SameUnit, State.memRead, hr, hr'] at cs ct h ⊢
    exact congrArg _ (Ram16k.eq_of_contents_eq cs ct h)
  | ram32k =>
    obtain ⟨r, hr⟩ := (hasBank_ram32k s).1 bs
    obtain ⟨r', hr'⟩ := (hasBank_ram32k t).1 bt
    simp only [UnitComplementary, SameUnit, State.memRead, hr, hr'] at cs ct h ⊢
    exact congrArg _ (Bank.eq_of_contents_eq 5 cs ct fun x _ => h x)

/-! What a tick leaves of the machine. -/

section
variable {s t : State}

/-- A tick builds no unit and takes none away (R122). -/
theorem UnitTick.kind_eq {u : UnitName} (h : UnitTick s u t) : t.top.kind = s.top.kind := by
  cases h with
  | ram16k built | ram32k built => rw [built]; rfl
  | _ => rfl

/-- Which banks a machine has is a matter of its top unit's kind (R7). -/
theorem State.hasBank_of_kind_eq (h : t.top.kind = s.top.kind) {b : BankName} (hb : s.hasBank b) :
    t.hasBank b := by
  cases b with
  | ram16k | ram32k => exact h.trans hb
  | _ => trivial

/-- An operation leaves the machine the banks it has. -/
theorem exec_hasBank {i : Instr} (h : exec i s = .next t) {b : BankName} (hb : s.hasBank b) :
    t.hasBank b :=
  State.hasBank_of_kind_eq (exec_unitTick h).kind_eq hb

/-- A tick that leaves its own unit as it was changes only the value returned. -/
theorem UnitTick.eq_of_sameUnit {u : UnitName} (h : UnitTick s u t) (hu : SameUnit u s t) :
    t = { s with output := t.output } := by
  cases h with
  | contract => rfl
  | _ =>
    simp only [SameUnit, State.putLatch, State.putGff, State.putBit, State.putReg16, State.putRam8,
      State.putRam64, State.putRam512, State.putRam4k, State.putTop] at hu ⊢
    rw [← hu]

end

/-! The flattened law (R41). -/

section
variable {s : State} {b : BankName}

/-- R41 for every bank the machine has: the tick returns the input if it writes and else the word at the
address, and a write changes that word and no other. -/
theorem tickBank_law (h : s.hasBank b) (v : Word) (a : BitVec b.addressWidth) (l : Bit) :
    ∃ t w, tickBank b v a l s = .next t ∧ t.output = some (.word w) ∧
      some w = (if l then some v else s.memRead b a.toNat) ∧
      ∀ x, t.memRead b x = if l ∧ x = a.toNat then some v else s.memRead b x := by
  cases b with
  | ram8 => exact ⟨_, _, rfl, rfl, bankTick_out_eq 1 _ v a l, bankTick_contents 1 _ v a l⟩
  | ram64 => exact ⟨_, _, rfl, rfl, bankTick_out_eq 2 _ v a l, bankTick_contents 2 _ v a l⟩
  | ram512 => exact ⟨_, _, rfl, rfl, bankTick_out_eq 3 _ v a l, bankTick_contents 3 _ v a l⟩
  | ram4k => exact ⟨_, _, rfl, rfl, bankTick_out_eq 4 _ v a l, bankTick_contents 4 _ v a l⟩
  | ram16k =>
    obtain ⟨r, hr⟩ := (hasBank_ram16k s).1 h
    simp only [State.memRead, hr]
    exact ⟨_, _, tickBank_ram16k s hr v a l, rfl, ram16kTick_out_eq r v a l,
      ram16kTick_contents r v a l⟩
  | ram32k =>
    obtain ⟨r, hr⟩ := (hasBank_ram32k s).1 h
    simp only [State.memRead, hr]
    exact ⟨_, _, tickBank_ram32k s hr v a l, rfl, bankTick_out_eq 5 r v a l,
      bankTick_contents 5 r v a l⟩

/-- A READ returns the word at its address and leaves every word. -/
theorem exec_bankRead (h : s.hasBank b) (v : Word) (a : BitVec b.addressWidth) :
    ∃ t w, exec (bankOperation b (Bus.ofBitVec v) (Bus.ofBitVec a) false) s = .next t ∧
      t.output = some (.word w) ∧ s.memRead b a.toNat = some w ∧
      ∀ x, t.memRead b x = s.memRead b x := by
  obtain ⟨t, w, ht, out, word, words⟩ := tickBank_law h v a false
  exact ⟨t, w, by rw [exec_bankOperation_ofBitVec, ht], out, by simpa using word.symm,
    by simpa using words⟩

/-- A WRITE returns its input and puts it at its address. -/
theorem exec_bankWrite (h : s.hasBank b) (v : Word) (a : BitVec b.addressWidth) :
    ∃ t, exec (bankOperation b (Bus.ofBitVec v) (Bus.ofBitVec a) true) s = .next t ∧
      t.output = some (.word v) ∧
      ∀ x, t.memRead b x = if x = a.toNat then some v else s.memRead b x := by
  obtain ⟨t, w, ht, out, word, words⟩ := tickBank_law h v a true
  obtain rfl : w = v := by simpa using word
  exact ⟨t, by rw [exec_bankOperation_ofBitVec, ht], out, by simpa using words⟩

/-- A READ where the word is known returns it. -/
theorem exec_bankRead_of_memRead (h : s.hasBank b) (x : Word) {a : BitVec b.addressWidth} {v : Word}
    (hv : s.memRead b a.toNat = some v) :
    ∃ t, exec (bankOperation b (Bus.ofBitVec x) (Bus.ofBitVec a) false) s = .next t ∧
      t.output = some (.word v) := by
  obtain ⟨t, w, ht, out, word, -⟩ := exec_bankRead h x a
  obtain rfl : w = v := Option.some.inj (word.symm.trans hv)
  exact ⟨t, ht, out⟩

/-- A bank operation is its bank's own tick (R56). -/
theorem bankOperation_unitTick {t : State} {i a : Bus} {l : Bit}
    (h : exec (bankOperation b i a l) s = .next t) : UnitTick s (.bank b) t := by
  rw [exec_bankOperation] at h
  exact tickBankPorts_unitTick h

/-- A bank operation that leaves every word of a complementary bank changes only the value returned. -/
theorem bankOperation_eq_of_memRead_eq {t : State} {i a : Bus} {l : Bit} (hb : s.hasBank b)
    (hs : UnitComplementary (.bank b) s) (ht : exec (bankOperation b i a l) s = .next t)
    (words : ∀ x, t.memRead b x = s.memRead b x) : t = { s with output := t.output } :=
  have tick := bankOperation_unitTick ht
  tick.eq_of_sameUnit (.of_memRead_eq hb (exec_hasBank ht hb) hs tick.complementary
    fun x => (words x).symm)

/-! Sequences of ticks (R42). -/

/-- Any sequence of a bank's ticks runs to the end, and each word is then the last one written there. -/
theorem runTicks_bankTicks (h : s.hasBank b) (ts : List (Word × BitVec b.addressWidth × Bit)) :
    ∃ t, runTicks (bankTicks b ts) s = .next t ∧ t.hasBank b ∧
      ∀ a : BitVec b.addressWidth,
        t.memRead b a.toNat = lastWritten a (s.memRead b a.toNat) ts := by
  induction ts generalizing s with
  | nil => exact ⟨s, rfl, h, fun _ => rfl⟩
  | cons tick ts ih =>
    obtain ⟨v, c, l⟩ := tick
    obtain ⟨t, w, ht, -, -, words⟩ := tickBank_law h v c l
    rw [← exec_bankOperation_ofBitVec] at ht
    obtain ⟨t', run, built, later⟩ := ih (exec_hasBank ht h)
    refine ⟨t', ?_, built, fun a => ?_⟩
    · simpa only [bankTicks, List.map_cons, runTicks, ht] using run
    · rw [later, words, lastWritten]
      simp only [← BitVec.toNat_inj, eq_comm]

/-- Reads write nothing. -/
theorem lastWritten_reads {w : Nat} (a : BitVec w) (m : Option Word)
    (reads : List (Word × BitVec w)) :
    lastWritten a m (reads.map fun r => (r.1, r.2, false)) = m := by
  induction reads with
  | nil => rfl
  | cons r reads ih => simpa [lastWritten] using ih

end

/-- Settles O29: by induction on the level, since a bank's words are its children's words. -/
theorem contentsDetermineBank : Obligations.ContentsDetermineBank :=
  ⟨fun k _ _ hs ht h => Bank.eq_of_contents_eq k hs ht fun x _ => h x,
    fun _ _ => Ram16k.eq_of_contents_eq⟩

/-- Settles O30: R41's law for the two loads, and O29's claim. -/
theorem bankTickLaw : Obligations.BankTickLaw :=
  ⟨fun _ _ v a hb => ⟨exec_bankWrite hb v a, exec_bankRead hb v a⟩, contentsDetermineBank.1⟩

/-- Settles O31: by induction on the sequence of ticks, and a READ after it. -/
theorem lastWriteIsRead : Obligations.LastWriteIsRead := by
  intro s b ts a v hb
  obtain ⟨t, run, built, words⟩ := runTicks_bankTicks hb ts
  obtain ⟨t', w, read, out, word, -⟩ := exec_bankRead built v a
  exact ⟨t, run, words a, t', w, read, (words a).symm.trans word, out⟩

/-- Settles O32: the WRITE puts v at a, where the READ finds it. -/
theorem writeThenRead : Obligations.WriteThenRead := by
  intro s b v x a hb
  obtain ⟨t, write, -, words⟩ := exec_bankWrite hb v a
  obtain ⟨t', read, out⟩ :=
    exec_bankRead_of_memRead (exec_hasBank write hb) x ((words _).trans (if_pos rfl))
  exact ⟨t, t', write, read, out⟩

/-- Settles O33: the WRITE at a leaves the word at c, which both READs return. -/
theorem writesAreIsolated : Obligations.WritesAreIsolated := by
  intro s b v x a c hb hac
  obtain ⟨t, write, -, words⟩ := exec_bankWrite hb v a
  obtain ⟨t'', w, read, out, word, -⟩ := exec_bankRead hb x c
  have kept : t.memRead b c.toNat = some w := by
    rw [words, if_neg fun h => hac (BitVec.eq_of_toNat_eq h.symm), word]
  obtain ⟨t', read', out'⟩ := exec_bankRead_of_memRead (exec_hasBank write hb) x kept
  exact ⟨t, t', t'', write, read', read, out'.trans out.symm⟩

/-- Settles O34: no read writes, so the last word written at a is still v. -/
theorem valuesPersist : Obligations.ValuesPersist := by
  intro s t b v x a reads hb write
  obtain ⟨_, write', -, words⟩ := exec_bankWrite hb v a
  cases write.symm.trans write'
  obtain ⟨t', run, built, later⟩ :=
    runTicks_bankTicks (exec_hasBank write hb) (reads.map fun r => (r.1, r.2, false))
  have kept : t'.memRead b a.toNat = some v := by
    rw [later, lastWritten_reads, words, if_pos rfl]
  obtain ⟨t'', read, out⟩ := exec_bankRead_of_memRead built x kept
  exact ⟨t', t'', run, read, out⟩

/-- Settles O35: a tick that leaves every word of a complementary bank leaves its whole state, and a bank
is complementary from its first tick on. -/
theorem readsChangeNothing : Obligations.ReadsChangeNothing := by
  intro s b v x a hb
  obtain ⟨t, w, read, out, word, words⟩ := exec_bankRead hb v a
  refine ⟨fun hs => ⟨w, ?_⟩, ?_, ?_⟩
  · have same := bankOperation_eq_of_memRead_eq hb (State.cellsComplementary_iff.1 hs _) read words
    rw [read, ← out, ← same]
  · obtain ⟨t', read', out'⟩ :=
      exec_bankRead_of_memRead (exec_hasBank read hb) x ((words _).trans word)
    exact ⟨t, t', read, words, read', out'.trans out.symm⟩
  · obtain ⟨t, write, out, words⟩ := exec_bankWrite hb v a
    have built := exec_hasBank write hb
    obtain ⟨t', write', out', words'⟩ := exec_bankWrite built v a
    have kept : ∀ y, t'.memRead b y = t.memRead b y := by
      intro y
      rw [words', words]
      split <;> rfl
    have same := bankOperation_eq_of_memRead_eq built (bankOperation_unitTick write).complementary
      write' kept
    rw [out', ← out] at same
    exact ⟨t, write, write'.trans (congrArg _ same)⟩

/-- Settles O45: a step takes the first request off, and neither delivering its LatchState nor the tick
it selects touches the others. -/
theorem stepsTakeRequestsInOrder : Obligations.StepsTakeRequestsInOrder := by
  refine ⟨fun s t r rs hs h => ?_, fun s hs => ?_⟩
  · obtain ⟨hnil, -⟩ | ⟨r', rs', i, hcons, -, run⟩ := step_next_cases h
    · cases hs.symm.trans hnil
    · cases hs.symm.trans hcons
      simpa using (exec_unitTick run).requests_eq
  · simp only [step, (State.fetch_none_iff s).2 hs]

end Machine
end Sys2Proof
end

section
/-! SUPPORT. Proofs of the statements of 30_encoding.md: what the control ports select (R56), port
vectors and their ports (R51, R52), the port check in front of every tick (R58, R59), and what decodes
(R57, R60). -/
namespace Sys2Proof

@[simp] theorem Bus.allBits_append (a b : Bus) :
    Bus.allBits (a ++ b) = (Bus.allBits a && Bus.allBits b) :=
  List.all_append

@[simp] theorem Bus.allBits_flatten (o : List Bus) : Bus.allBits o.flatten = o.all Bus.allBits :=
  List.all_flatten

/-! What the control ports select (R56, R59). -/

@[simp] theorem controlBit_ofBit (u : UnitName) (p : PortName) (b : Bit) :
    controlBit u p (Port.ofBit b) = .ok b := by
  cases b <;> rfl

/-- A control value that is no Bit is an error and 2 or more (R59). -/
theorem controlBit_of_nonBit (u : UnitName) (p : PortName) {x : Port} (h : Port.isBit x = false) :
    controlBit u p x = .error (.nonBit u p x) ∧ 2 ≤ x := by
  have hx : 2 ≤ x := Nat.le_of_not_lt (by simpa [Port.isBit] using h)
  match x, hx with
  | _ + 2, hx => exact ⟨rfl, hx⟩

/-- The operation `i` is the one that call `c` means: it drives the same unit with the same values. -/
structure Call.Means (c : Call) (i : Instr) : Prop where
  unit_eq : i.unit = c.unit
  encode_eq : encode i = c.vector
  widthsOk_eq : i.widthsOk = c.widthsOk

theorem Call.means_latch (s r : Bit) (p : Option LatchState) :
    (Call.latch (Port.ofBit s) (Port.ofBit r) p).Means (latchOperation s r) := by
  cases s <;> cases r <;> exact ⟨rfl, rfl, rfl⟩

theorem Call.means_bank (b : BankName) (i a : Bus) (l : Bit) :
    (Call.bank b i a (Port.ofBit l)).Means (bankOperation b i a l) where
  unit_eq := by cases b <;> cases l <;> rfl
  encode_eq := by
    cases b <;> cases l <;> simp [bankOperation, encode, Call.vector, Call.ports, Port.ofBit]
  widthsOk_eq := by cases b <;> cases l <;> rfl

/-- A call whose control ports carry Bits selects an operation, the one it means (R56). -/
theorem decodeCall_of_bits {c : Call} (h : c.controls.all Port.isBit = true) :
    ∃ i, decodeCall c = .ok i ∧ c.Means i := by
  cases c with
  | latch s r p =>
    simp only [Call.controls, List.all_cons, List.all_nil, Bool.and_true, Bool.and_eq_true] at h
    obtain ⟨s, rfl⟩ := Machine.exists_ofBit s h.1
    obtain ⟨r, rfl⟩ := Machine.exists_ofBit r h.2
    exact ⟨latchOperation s r, by cases s <;> cases r <;> rfl, Call.means_latch s r p⟩
  | gatedFlipFlop d e p =>
    obtain ⟨e, rfl⟩ := Machine.exists_ofBit e (by simpa [Call.controls] using h)
    cases e
    · exact ⟨.gffHold d, rfl, rfl, rfl, rfl⟩
    · exact ⟨.gffCommit d, rfl, rfl, rfl, rfl⟩
  | bit x l =>
    obtain ⟨l, rfl⟩ := Machine.exists_ofBit l (by simpa [Call.controls] using h)
    cases l
    · exact ⟨.bitHold x, rfl, rfl, rfl, rfl⟩
    · exact ⟨.bitLoad x, rfl, rfl, rfl, rfl⟩
  | reg16 x l =>
    obtain ⟨l, rfl⟩ := Machine.exists_ofBit l (by simpa [Call.controls] using h)
    cases l
    · exact ⟨.reg16Hold x, rfl, rfl, rfl, rfl⟩
    · exact ⟨.reg16Load x, rfl, rfl, rfl, rfl⟩
  | bank b x a l =>
    obtain ⟨l, rfl⟩ := Machine.exists_ofBit l (by simpa [Call.controls] using h)
    exact ⟨bankOperation b x a l, by cases l <;> rfl, Call.means_bank b x a l⟩
  | mux2 | demux8 | mux8x16 | demux4 | mux4x16 =>
    exact ⟨_, rfl, rfl, by simp [encode, Call.vector, Call.ports], rfl⟩

/-- A call with a control value that is no Bit selects no operation, and the error names its unit and
such a value (R59). -/
theorem decodeCall_of_nonBit {c : Call} (h : c.controls.all Port.isBit = false) :
    ∃ p x, decodeCall c = .error (.nonBit c.unit p x) ∧ 2 ≤ x := by
  cases c with
  | latch s r p =>
    cases hs : Port.isBit s with
    | false =>
      obtain ⟨e, hx⟩ := controlBit_of_nonBit .latch .set hs
      exact ⟨.set, s, by rw [decodeCall, e]; rfl, hx⟩
    | true =>
      obtain ⟨b, rfl⟩ := Machine.exists_ofBit s hs
      obtain ⟨e, hx⟩ :=
        controlBit_of_nonBit .latch .reset (x := r) (by simpa [Call.controls] using h)
      exact ⟨.reset, r, by rw [decodeCall, controlBit_ofBit, e]; rfl, hx⟩
  | gatedFlipFlop d e p =>
    obtain ⟨he, hx⟩ := controlBit_of_nonBit .gff .enable (x := e) (by simpa [Call.controls] using h)
    exact ⟨.enable, e, by rw [decodeCall, he]; rfl, hx⟩
  | bit i l =>
    obtain ⟨e, hx⟩ := controlBit_of_nonBit .bit .load (x := l) (by simpa [Call.controls] using h)
    exact ⟨.load, l, by rw [decodeCall, e]; rfl, hx⟩
  | reg16 i l =>
    obtain ⟨e, hx⟩ := controlBit_of_nonBit .reg16 .load (x := l) (by simpa [Call.controls] using h)
    exact ⟨.load, l, by rw [decodeCall, e]; rfl, hx⟩
  | bank b i a l =>
    obtain ⟨e, hx⟩ :=
      controlBit_of_nonBit (.bank b) .load (x := l) (by simpa [Call.controls] using h)
    exact ⟨.load, l, by rw [decodeCall, e]; rfl, hx⟩
  | _ => cases h

/-- A call that selects an operation means it. -/
theorem Call.means_of_decodeCall {c : Call} {i : Instr} (h : decodeCall c = .ok i) : c.Means i := by
  cases hc : c.controls.all Port.isBit with
  | false =>
    obtain ⟨p, x, e, -⟩ := decodeCall_of_nonBit hc
    cases e.symm.trans h
  | true =>
    obtain ⟨j, e, hj⟩ := decodeCall_of_bits hc
    cases e.symm.trans h
    exact hj

/-- Every operation has a contract call that selects it (R56). -/
theorem exists_decodeCall (i : Instr) : ∃ c, decodeCall c = .ok i :=
  match i with
  | .latchHold => ⟨.latch 0 0 none, rfl⟩
  | .latchReset => ⟨.latch 0 1 none, rfl⟩
  | .latchSet => ⟨.latch 1 0 none, rfl⟩
  | .latchBoth => ⟨.latch 1 1 none, rfl⟩
  | .gffHold d => ⟨.gatedFlipFlop d 0 none, rfl⟩
  | .gffCommit d => ⟨.gatedFlipFlop d 1 none, rfl⟩
  | .bitHold x => ⟨.bit x 0, rfl⟩
  | .bitLoad x => ⟨.bit x 1, rfl⟩
  | .reg16Hold x => ⟨.reg16 x 0, rfl⟩
  | .reg16Load x => ⟨.reg16 x 1, rfl⟩
  | .ram8Read x a => ⟨.bank .ram8 x a 0, rfl⟩
  | .ram8Write x a => ⟨.bank .ram8 x a 1, rfl⟩
  | .ram64Read x a => ⟨.bank .ram64 x a 0, rfl⟩
  | .ram64Write x a => ⟨.bank .ram64 x a 1, rfl⟩
  | .ram512Read x a => ⟨.bank .ram512 x a 0, rfl⟩
  | .ram512Write x a => ⟨.bank .ram512 x a 1, rfl⟩
  | .ram4kRead x a => ⟨.bank .ram4k x a 0, rfl⟩
  | .ram4kWrite x a => ⟨.bank .ram4k x a 1, rfl⟩
  | .ram16kRead x a => ⟨.bank .ram16k x a 0, rfl⟩
  | .ram16kWrite x a => ⟨.bank .ram16k x a 1, rfl⟩
  | .ram32kRead x a => ⟨.bank .ram32k x a 0, rfl⟩
  | .ram32kWrite x a => ⟨.bank .ram32k x a 1, rfl⟩
  | .mux2 a b s => ⟨.mux2 a b s, rfl⟩
  | .demux8 x t => ⟨.demux8 x t, rfl⟩
  | .mux8x16 o t => ⟨.mux8x16 o t, rfl⟩
  | .demux4 x t => ⟨.demux4 x t, rfl⟩
  | .mux4x16 o t => ⟨.mux4x16 o t, rfl⟩

/-! Port vectors and their ports (R51, R52). -/

/-- A word multiplexer's widths are right exactly when it has n options of 16 and a selector of w. -/
theorem muxWidthsOk_iff {n w : Nat} {o : List Bus} {t : Bus} :
    muxWidthsOk n w o t = true ↔ o.length = n ∧ (∀ b ∈ o, b.length = 16) ∧ t.length = w := by
  simp [muxWidthsOk, and_assoc]

theorem BankName.widthsOk_iff {b : BankName} {i a : Bus} :
    b.widthsOk i a = true ↔ i.length = 16 ∧ a.length = b.addressWidth := by
  simp [BankName.widthsOk]

/-- Words laid end to end are cut into the same words again. -/
theorem optionBuses_flatten_append (o : List Bus) (t : Bus) (h : ∀ b ∈ o, b.length = 16) :
    optionBuses o.length (o.flatten ++ t) = o := by
  induction o with
  | nil => rfl
  | cons b o ih =>
    have hb : b.length = 16 := h b List.mem_cons_self
    rw [List.flatten_cons, List.append_assoc, List.length_cons, optionBuses, List.take_left' hb,
      List.drop_left' hb, ih fun c hc => h c (List.mem_cons_of_mem _ hc)]

/-- A vector long enough for n options is n buses of 16 laid end to end, with what stands after them. -/
theorem optionBuses_of_le (n : Nat) (ports : Bus) (h : n * 16 ≤ ports.length) :
    (optionBuses n ports).length = n ∧ (∀ b ∈ optionBuses n ports, b.length = 16) ∧
      (optionBuses n ports).flatten ++ ports.drop (n * 16) = ports := by
  induction n generalizing ports with
  | zero => simp [optionBuses]
  | succ n ih =>
    obtain ⟨hl, hw, hf⟩ := ih (ports.drop 16) (by rw [List.length_drop]; omega)
    refine ⟨by simp [optionBuses, hl], ?_, ?_⟩
    · rintro b (_ | ⟨_, hb⟩)
      · rw [List.length_take]; omega
      · exact hw b hb
    · rw [List.drop_drop] at hf
      rw [optionBuses, List.flatten_cons, List.append_assoc, Nat.succ_mul, Nat.add_comm, hf,
        List.take_append_drop]

/-- A call's port vector is its operands' ports with the control ports last (R51, R56). -/
theorem Call.vector_eq_append_controls (c : Call) :
    ∃ operands, c.vector = operands ++ c.controls := by
  cases c with
  | latch s r p => exact ⟨[], rfl⟩
  | gatedFlipFlop d e p => exact ⟨[d], rfl⟩
  | bit i l => exact ⟨[i], rfl⟩
  | reg16 i l => exact ⟨i, rfl⟩
  | bank b i a l => exact ⟨i ++ a, by simp [Call.vector, Call.ports, Call.controls]⟩
  | mux2 | demux8 | mux8x16 | demux4 | mux4x16 => exact ⟨_, (List.append_nil _).symm⟩

theorem Call.length_controls (c : Call) : c.controls.length = c.unit.controlWidth := by
  cases c <;> rfl

/-- A call of the contract's widths has a port vector of its unit's width (R52). -/
theorem Call.length_vector {c : Call} (h : c.widthsOk = true) :
    c.vector.length = c.unit.formatWidth := by
  cases c with
  | latch | gatedFlipFlop | bit | mux2 => rfl
  | reg16 i l | demux8 i t | demux4 i t =>
    simp only [Call.widthsOk, beq_iff_eq] at h
    simp [Call.vector, Call.ports, Call.unit, UnitName.formatWidth, h]
  | bank b i a l =>
    obtain ⟨hi, ha⟩ := BankName.widthsOk_iff.1 h
    simp only [Call.vector, Call.ports, Call.unit, UnitName.formatWidth, List.flatten_cons,
      List.flatten_nil, List.append_nil, List.length_append, List.length_singleton, hi, ha]
    omega
  | mux8x16 o t | mux4x16 o t =>
    obtain ⟨ho, hw, ht⟩ := muxWidthsOk_iff.1 h
    simp only [Call.vector, Call.ports, Call.unit, UnitName.formatWidth, List.flatten_append,
      List.length_append, Laws.VectorWidth.length_flatten_words o hw, ho]
    simp [ht]

/-- The control ports of a call stand last in its port vector (R51). -/
theorem Call.controls_vector {c : Call} (h : c.widthsOk = true) :
    c.unit.controls c.vector = c.controls := by
  obtain ⟨operands, hv⟩ := c.vector_eq_append_controls
  have hl : operands.length = c.unit.formatWidth - c.unit.controlWidth := by
    rw [← c.length_vector h, ← c.length_controls, hv, List.length_append, Nat.add_sub_cancel]
  rw [UnitName.controls, hv, List.drop_left' hl]

/-- A port vector of the contract's widths selects what the call selects (R51, R52). -/
theorem decode_vector {c : Call} (h : c.widthsOk = true) : decode c.unit c.vector = decodeCall c := by
  cases c with
  | latch | gatedFlipFlop | bit | mux2 => rfl
  | reg16 i l =>
    have hi : i.length = 16 := by simpa [Call.widthsOk] using h
    simp [decode, decodeVector, Call.unit, Call.vector, Call.ports, ← hi]
  | bank b i a l =>
    obtain ⟨hi, ha⟩ := BankName.widthsOk_iff.1 h
    simp [decode, decodeVector, Call.unit, Call.vector, Call.ports, ← hi, ← ha]
  | demux8 x t =>
    obtain ⟨t0, t1, t2, rfl⟩ := List.length_eq_three.1 (by simpa [Call.widthsOk] using h)
    rfl
  | demux4 x t =>
    obtain ⟨t0, t1, rfl⟩ := List.length_eq_two.1 (by simpa [Call.widthsOk] using h)
    rfl
  | mux8x16 o t | mux4x16 o t =>
    obtain ⟨ho, hw, ht⟩ := muxWidthsOk_iff.1 h
    have hlen := Laws.VectorWidth.length_flatten_words o hw
    have hcut := optionBuses_flatten_append o t hw
    rw [ho] at hlen hcut
    simp [decode, decodeVector, Call.unit, Call.vector, Call.ports, hcut, hlen, ht,
      List.drop_left' hlen]

/-- Every vector of a unit's width is the port vector of a call of that unit (R52). -/
theorem exists_call_of_width {u : UnitName} {ports : Bus} (h : ports.length = u.formatWidth) :
    ∃ c : Call, c.unit = u ∧ c.widthsOk = true ∧ c.vector = ports := by
  cases u with
  | latch =>
    obtain ⟨s, r, rfl⟩ := List.length_eq_two.1 h
    exact ⟨.latch s r none, rfl, rfl, rfl⟩
  | gff =>
    obtain ⟨d, e, rfl⟩ := List.length_eq_two.1 h
    exact ⟨.gatedFlipFlop d e none, rfl, rfl, rfl⟩
  | bit =>
    obtain ⟨i, l, rfl⟩ := List.length_eq_two.1 h
    exact ⟨.bit i l, rfl, rfl, rfl⟩
  | mux2 =>
    obtain ⟨a, b, s, rfl⟩ := List.length_eq_three.1 h
    exact ⟨.mux2 a b s, rfl, rfl, rfl⟩
  | reg16 =>
    replace h : ports.length = 17 := h
    obtain ⟨l, hl⟩ := (ports.drop 16).length_eq_one_iff.1 (by simp [h])
    refine ⟨.reg16 (ports.take 16) l, rfl, by simp [Call.widthsOk, h], ?_⟩
    simp [Call.vector, Call.ports, ← hl]
  | bank b =>
    replace h : ports.length = 17 + b.addressWidth := h
    obtain ⟨l, hl⟩ := ((ports.drop 16).drop b.addressWidth).length_eq_one_iff.1
      (by simp only [List.length_drop]; omega)
    refine ⟨.bank b (ports.take 16) ((ports.drop 16).take b.addressWidth) l, rfl,
      BankName.widthsOk_iff.2 ?_, ?_⟩
    · simp only [List.length_take, List.length_drop]
      omega
    · simp only [Call.vector, Call.ports, ← hl, List.flatten_cons, List.flatten_nil, List.append_nil,
        List.take_append_drop]
  | demux8 =>
    obtain ⟨x, t, rfl⟩ := List.exists_cons_of_length_eq_add_one h
    exact ⟨.demux8 x t, rfl, beq_iff_eq.2 (Nat.succ.inj h), by simp [Call.vector, Call.ports]⟩
  | demux4 =>
    obtain ⟨x, t, rfl⟩ := List.exists_cons_of_length_eq_add_one h
    exact ⟨.demux4 x t, rfl, beq_iff_eq.2 (Nat.succ.inj h), by simp [Call.vector, Call.ports]⟩
  | mux8x16 =>
    replace h : ports.length = 131 := h
    obtain ⟨hl, hw, hf⟩ := optionBuses_of_le 8 ports (by omega)
    exact ⟨.mux8x16 (optionBuses 8 ports) (ports.drop 128), rfl,
      muxWidthsOk_iff.2 ⟨hl, hw, by simp [h]⟩, by simpa [Call.vector, Call.ports] using hf⟩
  | mux4x16 =>
    replace h : ports.length = 66 := h
    obtain ⟨hl, hw, hf⟩ := optionBuses_of_le 4 ports (by omega)
    exact ⟨.mux4x16 (optionBuses 4 ports) (ports.drop 64), rfl,
      muxWidthsOk_iff.2 ⟨hl, hw, by simp [h]⟩, by simpa [Call.vector, Call.ports] using hf⟩

/-- A vector of another width than its unit's is malformed (R60). -/
theorem decode_of_width_ne {u : UnitName} {ports : Bus} (h : ports.length ≠ u.formatWidth) :
    decode u ports = .error (malformedVector u ports) := by
  suffices decodeVector u ports = .error (malformedVector u ports) by rw [decode, this]
  unfold decodeVector
  split
  case h_1 | h_2 | h_3 | h_6 | h_7 | h_8 => exact absurd rfl h
  case h_4 | h_5 =>
    split
    · rename_i l hl
      have hlen := congrArg List.length hl
      simp only [List.length_drop, List.length_singleton] at hlen
      simp only [UnitName.formatWidth] at h
      omega
    · rfl
  case h_9 | h_10 => exact if_neg h
  case h_11 => rfl

/-- An operation's port vector carries Bits exactly where its operands do: its control bits are Bits
(R56). -/
theorem allBits_encode (i : Instr) : Bus.allBits (encode i) = i.bitsOnly := by
  cases i with
  | mux8x16 | mux4x16 => simp [encode, Instr.bitsOnly, Instr.ports]
  | _ => simp [encode, Instr.bitsOnly, Instr.ports, Bus.allBits, Port.isBit]

/-- Bits on every port of a call are Bits on every control port. -/
theorem Call.controls_of_bits {c : Call} (h : Bus.allBits c.vector = true) :
    c.controls.all Port.isBit = true := by
  obtain ⟨operands, hv⟩ := c.vector_eq_append_controls
  rw [hv, Bus.allBits_append, Bool.and_eq_true] at h
  exact h.2

/-- Every vector of Bits of its unit's width decodes to a well-formed operation of the unit, whose port
vector it is (R52, R57). -/
theorem decode_of_width {u : UnitName} {ports : Bus} (hb : ports.allBits = true)
    (h : ports.length = u.formatWidth) :
    ∃ i, decode u ports = .ok i ∧ i.unit = u ∧ i.wellFormed = true ∧ encode i = ports := by
  obtain ⟨c, rfl, hw, rfl⟩ := exists_call_of_width h
  obtain ⟨i, hi, means⟩ := decodeCall_of_bits (Call.controls_of_bits hb)
  refine ⟨i, (decode_vector hw).trans hi, means.unit_eq, ?_, means.encode_eq⟩
  rw [Instr.wellFormed, ← allBits_encode, means.encode_eq, means.widthsOk_eq, hb, hw, Bool.and_self]

/-- The port vector of an operation with the right widths decodes to that operation. -/
theorem decode_encode {i : Instr} (h : i.widthsOk = true) : decode i.unit (encode i) = .ok i := by
  obtain ⟨c, hc⟩ := exists_decodeCall i
  have means := Call.means_of_decodeCall hc
  rw [means.unit_eq, means.encode_eq, decode_vector (means.widthsOk_eq ▸ h), hc]

/-- A call with a value that is no Bit is refused by the decoder, naming such a value, or selects an
operation of its unit that carries the value on (R59). -/
theorem decodeCall_of_vector_nonBit {c : Call} (h : Bus.allBits c.vector = false) :
    (∃ p x, decodeCall c = .error (.nonBit c.unit p x) ∧ 2 ≤ x) ∨
      ∃ i, decodeCall c = .ok i ∧ i.unit = c.unit ∧ i.bitsOnly = false := by
  cases hc : c.controls.all Port.isBit with
  | false => exact .inl (decodeCall_of_nonBit hc)
  | true =>
    obtain ⟨i, hi, means⟩ := decodeCall_of_bits hc
    exact .inr ⟨i, hi, means.unit_eq, by rw [← allBits_encode, means.encode_eq, h]⟩

/-- The same of every request: a port vector of its unit's width is a call's, another is malformed. -/
theorem decodeRequest_of_nonBit {r : Request} (h : r.bitsOnly = false) :
    (∃ p x, decodeRequest r = .error (.nonBit r.unit p x) ∧ 2 ≤ x) ∨
      ∃ i, decodeRequest r = .ok i ∧ i.unit = r.unit ∧ i.bitsOnly = false := by
  cases r with
  | call c => exact decodeCall_of_vector_nonBit (by rwa [Call.vector, Bus.allBits_flatten])
  | vector u ports =>
    by_cases hw : ports.length = u.formatWidth
    · obtain ⟨c, rfl, hc, rfl⟩ := exists_call_of_width hw
      rw [decodeRequest, decode_vector hc]
      exact decodeCall_of_vector_nonBit h
    · obtain ⟨x, hx, h2⟩ := Machine.malformedVector_of_nonBit u h
      exact .inl ⟨.vector, x, by rw [decodeRequest, decode_of_width_ne hw, hx]; rfl, h2⟩

namespace Machine

/-! The port check in front of every tick (R58, R59). -/

/-- `r` is what a tick of unit `u` on `s` ends in when its port values are all Bits or not (`bits`) and
its buses have their widths or not (`widths`): a value that is no Bit is refused, Bits of a wrong width
are a Fatal, and on ports that fit the tick of a unit the machine has answers with a value. -/
structure CheckedTick (s : State) (u : UnitName) (bits widths : Bool) (r : Result) : Prop where
  nonBit : bits = false → ∃ p x, r = .refused (.nonBit u p x) ∧ 2 ≤ x
  busWidth : bits = true → widths = false → ∃ p n, r = .fault (.busWidth u p n)
  completes : bits = true → widths = true → s.hasUnit u → ∃ t o, r = .next t ∧ t.output = some o

/-- A tick behind `withPorts` is checked, if its unit's tick answers and the check asks what `bits` and
`widths` say. -/
theorem checkedTick_withPorts {s : State} {u : UnitName} {bits widths : Bool} {cs : List PortCheck}
    {tick : Result} (hb : bits = true ↔ ∀ c ∈ cs, Bus.allBits c.values = true)
    (hw : widths = true ↔ ∀ c ∈ cs, c.found = c.want)
    (ht : s.hasUnit u → ∃ t o, tick = .next t ∧ t.output = some o) :
    CheckedTick s u bits widths (withPorts u cs tick) := by
  rw [← firstNonBit_eq_none] at hb
  rw [← firstWidth_eq_none] at hw
  rcases withPorts_cases u cs tick with ⟨p, x, hx, e, run⟩ | ⟨p, n, e, e', run⟩ | ⟨e, e', run⟩
  · have bad : bits = false := by simpa [e] using hb
    exact ⟨fun _ => ⟨p, x, run, hx⟩, by simp [bad], by simp [bad]⟩
  · have good : bits = true := hb.2 e
    have bad : widths = false := by simpa [e'] using hw
    exact ⟨by simp [good], fun _ _ => ⟨p, n, run⟩, by simp [bad]⟩
  · have goodBits : bits = true := hb.2 e
    have goodWidths : widths = true := hw.2 e'
    rw [run]
    exact ⟨by simp [goodBits], by simp [goodWidths], fun _ _ => ht⟩

/-- On ports of Bits, the first bus of a wrong width ends the tick in a Fatal (R58, R107). -/
theorem withPorts_of_width {u : UnitName} {cs : List PortCheck} {tick : Result} {p : PortName}
    {n : Nat} (hb : firstNonBit cs = none) (hw : firstWidth cs = some (p, n)) :
    withPorts u cs tick = .fault (.busWidth u p n) := by
  simp only [withPorts, hb, hw, raiseFatal]

section
variable (s : State)

theorem tickLatch_checked (set reset : Bit) :
    CheckedTick s .latch true true (tickLatch set reset s) where
  nonBit := nofun
  busWidth := nofun
  completes _ _ _ := ⟨_, _, rfl, rfl⟩

theorem tickGff_checked (d : Port) (e : Bit) :
    CheckedTick s .gff ([[d]].all Bus.allBits) true (tickGff d e s) :=
  checkedTick_withPorts (by simp [bitPort]) (by simp [bitPort]) fun _ => ⟨_, _, rfl, rfl⟩

theorem tickBit_checked (i : Port) (l : Bit) :
    CheckedTick s .bit ([[i]].all Bus.allBits) true (tickBit i l s) :=
  checkedTick_withPorts (by simp [bitPort]) (by simp [bitPort]) fun _ => ⟨_, _, rfl, rfl⟩

theorem tickReg16_checked (i : Bus) (l : Bit) :
    CheckedTick s .reg16 ([i].all Bus.allBits) (i.length == 16) (tickReg16 i l s) :=
  checkedTick_withPorts (by simp [busPort]) (by simp [busPort]) fun _ => ⟨_, _, rfl, rfl⟩

/-- A bank the machine has answers its tick with a word. -/
theorem tickBank_output {b : BankName} (h : s.hasBank b) (v : Word) (a : BitVec b.addressWidth)
    (l : Bit) : ∃ t o, tickBank b v a l s = .next t ∧ t.output = some o := by
  obtain ⟨t, w, run, out, -⟩ := tickBank_law h v a l
  exact ⟨t, .word w, run, out⟩

theorem tickBankPorts_checked (b : BankName) (i a : Bus) (l : Bit) :
    CheckedTick s (.bank b) ([i, a].all Bus.allBits) (b.widthsOk i a) (tickBankPorts b i a l s) :=
  checkedTick_withPorts (by simp [bankPorts, busPort])
    (by simp [BankName.widthsOk, bankPorts, busPort]) fun h => tickBank_output s h _ _ l

/-- A word multiplexer's ports are its number of options, every option and its selector. -/
theorem forall_mem_muxPorts {n w : Nat} {o : List Bus} {t : Bus}
    {P : Nat → Nat → List Port → Prop} :
    (∀ c ∈ muxPorts n w o t, P c.want c.found c.values) ↔
      P n o.length [] ∧ (∀ b ∈ o, P 16 b.length b) ∧ P w t.length t := by
  have hzip : (∀ q ∈ o.zipIdx, P 16 q.1.length q.1) ↔ ∀ b ∈ o, P 16 b.length b := by
    conv_rhs => rw [← List.zipIdx_map_fst 0 o, List.forall_mem_map]
  simp only [muxPorts, List.cons_append, List.forall_mem_cons, List.forall_mem_append,
    List.forall_mem_map, busPort, hzip, List.not_mem_nil, false_imp_iff, implies_true, and_true]

theorem muxPorts_checked {u : UnitName} (n w : Nat) (o : List Bus) (t : Bus) (v : Output) :
    CheckedTick s u ((o ++ [t]).all Bus.allBits) (muxWidthsOk n w o t)
      (withPorts u (muxPorts n w o t) (.next (s.putOutput v))) := by
  refine checkedTick_withPorts ?_ ?_ fun _ => ⟨_, _, rfl, rfl⟩
  · rw [forall_mem_muxPorts (P := fun _ _ values => Bus.allBits values = true)]
    simp [Bus.allBits]
  · rw [forall_mem_muxPorts (P := fun want found _ => found = want), muxWidthsOk_iff]

/-- Every operation is its unit's tick behind the check of its own ports (R56, R58, R59). -/
theorem exec_checked (i : Instr) : CheckedTick s i.unit i.bitsOnly i.widthsOk (exec i s) :=
  match i with
  | .latchHold | .latchReset | .latchSet | .latchBoth => tickLatch_checked s _ _
  | .gffHold d | .gffCommit d => tickGff_checked s d _
  | .bitHold x | .bitLoad x => tickBit_checked s x _
  | .reg16Hold x | .reg16Load x => tickReg16_checked s x _
  | .ram8Read _ _ | .ram8Write _ _ => tickBankPorts_checked s .ram8 _ _ _
  | .ram64Read _ _ | .ram64Write _ _ => tickBankPorts_checked s .ram64 _ _ _
  | .ram512Read _ _ | .ram512Write _ _ => tickBankPorts_checked s .ram512 _ _ _
  | .ram4kRead _ _ | .ram4kWrite _ _ => tickBankPorts_checked s .ram4k _ _ _
  | .ram16kRead _ _ | .ram16kWrite _ _ => tickBankPorts_checked s .ram16k _ _ _
  | .ram32kRead _ _ | .ram32kWrite _ _ => tickBankPorts_checked s .ram32k _ _ _
  | .mux2 _ _ _ => checkedTick_withPorts (by simp [Instr.bitsOnly, Instr.ports, bitPort])
      (by simp [Instr.widthsOk, bitPort]) fun _ => ⟨_, _, rfl, rfl⟩
  | .demux8 _ _ | .demux4 _ _ =>
    checkedTick_withPorts (by simp [Instr.bitsOnly, Instr.ports, bitPort, busPort])
      (by simp [Instr.widthsOk, bitPort, busPort]) fun _ => ⟨_, _, rfl, rfl⟩
  | .mux8x16 o t => muxPorts_checked s 8 3 o t _
  | .mux4x16 o t => muxPorts_checked s 4 2 o t _

/-- An operation with a value that is no Bit is refused for such a value, whatever its widths are and
whatever the machine has (R59). -/
theorem exec_of_nonBit {i : Instr} (h : i.bitsOnly = false) :
    ∃ p x, exec i s = .refused (.nonBit i.unit p x) ∧ 2 ≤ x :=
  (exec_checked s i).nonBit h

/-- A well-formed operation of a unit the machine has answers a next state and returns a value. -/
theorem exec_of_wellFormed {i : Instr} (h : i.wellFormed = true) (hu : s.hasUnit i.unit) :
    ∃ t o, exec i s = .next t ∧ t.output = some o := by
  rw [Instr.wellFormed, Bool.and_eq_true] at h
  exact (exec_checked s i).completes h.1 h.2 hu

/-- A step on a request with a value that is no Bit is refused for such a value (R59). -/
theorem step_of_nonBit {r : Request} {rs : List Request} (hs : s.requests = r :: rs)
    (h : r.bitsOnly = false) : ∃ p x, step s = .refused (.nonBit r.unit p x) ∧ 2 ≤ x := by
  rw [step_cons s hs]
  obtain ⟨p, x, e, hx⟩ | ⟨i, e, hu, hi⟩ := decodeRequest_of_nonBit h <;> rw [e]
  · exact ⟨p, x, rfl, hx⟩
  · rw [← hu]
    exact exec_of_nonBit _ hi

end

/-! The fields of a bank's address (R53). -/

/-- The high bits of an address, taken as a field, are its first bits. -/
theorem getMsbD_extractLsb'_high {n m : Nat} (a : BitVec (n + m)) {j : Nat} (h : j < m) :
    (a.extractLsb' n m).getMsbD j = a.getMsbD j := by
  have e : n + m - (n + m - j) = j := by omega
  simp [BitVec.getMsbD_extractLsb', h, e]

/-- The low bits of an address, taken as a field, are the bits after the others. -/
theorem getMsbD_extractLsb'_low {n m : Nat} (a : BitVec (n + m)) {j : Nat} (h : j < n) :
    (a.extractLsb' 0 n).getMsbD j = a.getMsbD (m + j) := by
  have e : n + m - (n - j) = m + j := by omega
  have hle : n - j ≤ n + m := by omega
  simp [BitVec.getMsbD_extractLsb', h, e, hle]

/-- Settles O18: on ports of Bits the check finds the first bus of a wrong width, the data bus before the
address bus. -/
theorem wrongWidthsAreFatal : Obligations.WrongWidthsAreFatal := by
  refine ⟨fun s b hb hw => ?_, fun s b i a l _ hi ha => ?_⟩
  · have fatal (l : Bit) : tickReg16 b l s = .fault (.busWidth .reg16 .input b.length) :=
      withPorts_of_width (firstNonBit_eq_none.2 (by simpa [busPort] using hb))
        (by simp [firstWidth, busPort, hw])
    exact ⟨fatal false, fatal true⟩
  · have bits : firstNonBit (bankPorts b i a) = none :=
      firstNonBit_eq_none.2 (by simp [bankPorts, busPort, hi, ha])
    rw [exec_bankOperation]
    refine ⟨fun hw _ => ?_, fun hw hw' => ?_, fun hw _ => ?_⟩
    · exact withPorts_of_width bits (by simp [firstWidth, bankPorts, busPort, hw])
    · exact withPorts_of_width bits (by simp [firstWidth, bankPorts, busPort, hw, hw'])
    · exact (tickBankPorts_checked s b i a l).busWidth (by simp [hi, ha])
        (by simp [BankName.widthsOk, hw])

/-- Settles O20: the decoder refuses a control value, the port check every other. -/
theorem nonBitsAreRefused : Obligations.NonBitsAreRefused := by
  refine ⟨fun i s h => ?_, fun c => decodeCall_of_nonBit, fun u ports h hc => ?_,
    fun s r rs hs h => ?_⟩
  · obtain ⟨p, x, run, hx⟩ := exec_of_nonBit s h
    exact ⟨fun t => by rw [run]; nofun, fun _ _ => ⟨p, x, run, hx⟩⟩
  · obtain ⟨c, rfl, hw, rfl⟩ := exists_call_of_width h
    rw [Call.controls_vector hw] at hc
    rw [decodeRequest, decode_vector hw]
    exact decodeCall_of_nonBit hc
  · obtain ⟨p, x, run, hx⟩ := step_of_nonBit s hs h
    exact ⟨fun t => by rw [run]; nofun, fun _ _ => ⟨p, x, run, hx⟩⟩

/-- Settles O21: the operation is a call's, and a call's port vector selects what the call selects. -/
theorem decodeEncodeRoundTrip : Obligations.DecodeEncodeRoundTrip := by
  intro i h
  rw [Instr.wellFormed, Bool.and_eq_true] at h
  exact decode_encode h.2

/-- Settles O22: what the vector decodes to is the one operation of `decode_of_width`. -/
theorem encodeDecodeRoundTrip : Obligations.EncodeDecodeRoundTrip := by
  intro u ports i hb hw hi
  obtain ⟨j, hj, rest⟩ := decode_of_width hb hw
  cases hj.symm.trans hi
  exact rest

/-- Settles O23: the vector decodes to a well-formed operation, and those complete. -/
theorem everyVectorHasAMeaning : Obligations.EveryVectorHasAMeaning := by
  refine ⟨fun u ports hb hw => ?_, fun s => ⟨rfl, _, rfl, rfl⟩⟩
  obtain ⟨i, hi, rfl, hwf, -⟩ := decode_of_width hb hw
  refine ⟨i, hi, fun s hu => ?_⟩
  obtain ⟨t, o, run, -⟩ := exec_of_wellFormed s hwf hu
  exact ⟨t, run⟩

/-- Settles O24: each written number is laid out as its unit's port vector and decoded. -/
theorem specWordsDecode : Obligations.SpecWordsDecode := by
  refine ⟨?_, ?_, ?_, ?_, ?_, ?_, ?_, ?_, ?_, ?_⟩ <;> decide

/-- Settles O26: the selecting field is the high part of the address, the remainder the low part. -/
theorem addressSplit : Obligations.AddressSplit :=
  ⟨fun k a => ⟨fun _ h => getMsbD_extractLsb'_high (n := 3 * k) (m := 3) a h,
      fun _ h => getMsbD_extractLsb'_low (n := 3 * k) (m := 3) a h⟩,
    fun a => ⟨fun _ h => getMsbD_extractLsb'_high (n := 12) (m := 2) a h,
      fun _ h => getMsbD_extractLsb'_low (n := 12) (m := 2) a h⟩⟩

/-- Settles O39: ports that pass the check leave the tick of a unit the machine has. -/
theorem wellFormedOperationsComplete : Obligations.WellFormedOperationsComplete :=
  fun _ s => exec_of_wellFormed s

/-- Settles O43: the port vector decodes to the operation and delivers no LatchState. -/
theorem stepRunsEncoded : Obligations.StepRunsEncoded := by
  intro s i rs h hs
  rw [step_cons s hs, decodeRequest, decodeEncodeRoundTrip i h]
  rfl

/-- Settles O44: the vector is malformed, and one of Bits is malformed in its width. -/
theorem stepStopsOnMalformedVector : Obligations.StepStopsOnMalformedVector := by
  intro s u ports rs hs hb hw
  rw [step_cons s hs, decodeRequest, decode_of_width_ne hw, malformedVector_of_allBits u hb]
  rfl

/-- Settles O52: the rows of the operation map one by one, and `decode_vector`. -/
theorem callsSelectOperations : Obligations.CallsSelectOperations := by
  refine ⟨fun p => ⟨rfl, rfl, rfl, rfl⟩, fun d p => ⟨rfl, rfl⟩, fun i => ⟨rfl, rfl⟩,
    fun i => ⟨rfl, rfl⟩, fun i a => ⟨rfl, rfl, rfl, rfl, rfl, rfl, rfl, rfl, rfl, rfl, rfl, rfl⟩,
    fun x y z t o => ⟨rfl, rfl, rfl, rfl, rfl⟩, fun c => decode_vector⟩

end Machine
end Sys2Proof
end

section
/-! SUPPORT. Proofs of the statements of 40_latch_and_flipflop.md: the latch's truth table (R65 to R69),
the flip-flop as a latch with gated inputs (R70) and its two operations (R71, R72). -/
namespace Sys2Proof

namespace Machine

/-- Every LATCH operation puts the truth table's row for its control bits into the latch (R65). -/
theorem exec_latchOperation (s : State) (set reset : Bit) :
    exec (latchOperation set reset) s = .next (s.putLatch (latch set reset s.latch)) := by
  cases set <;> cases reset <;> rfl

/-- GFF.HOLD on a data Bit returns the LatchState held (R71). -/
theorem exec_gffHold_ofBit (s : State) (d : Bit) :
    exec (.gffHold (Port.ofBit d)) s = .next (s.putGff s.gff) :=
  tickGff_ofBit s d false

/-- GFF.COMMIT on a data Bit stores it with its complement (R72). -/
theorem exec_gffCommit_ofBit (s : State) (d : Bit) :
    exec (.gffCommit (Port.ofBit d)) s = .next (s.putGff ⟨d, !d⟩) := by
  rw [← gatedFlipFlop_commit d s.gff]
  exact tickGff_ofBit s d true

/-- An enabled flip-flop is the latch on data and its complement (R70). -/
theorem gatedFlipFlop_enabled (d : Bit) (p : LatchState) : gatedFlipFlop d true p = latch d (!d) p :=
  rfl

/-- The enable gates the latch's two inputs: with enable 0 both are 0, and the latch holds (R70). -/
theorem gatedFlipFlop_eq_latch_gated (d e : Bit) (p : LatchState) :
    gatedFlipFlop d e p = latch (d && e) (!d && e) p := by
  cases e with
  | false => rw [Bool.and_false, Bool.and_false, gatedFlipFlop_hold, latch_hold]
  | true => rw [Bool.and_true, Bool.and_true, gatedFlipFlop_enabled]

/-- A BIT tick drives its flip-flop with enable 1 and the selected value (R74, R77). -/
theorem bitTick_cell (r : BitReg) (i l : Bit) :
    (bitTick r i l).1.cell = gatedFlipFlop (mux2 r.cell.q i l) true r.cell :=
  rfl

/-- Settles O1: the rows of the truth table, and for each operation its port vector and its tick. -/
theorem latchOperations : Obligations.LatchOperations :=
  ⟨fun p => ⟨latch_hold p, latch_reset p, latch_set p, latch_both p⟩,
    fun s => ⟨⟨decode_encode (i := .latchHold) rfl, exec_latchOperation s false false⟩,
      ⟨decode_encode (i := .latchReset) rfl, exec_latchOperation s false true⟩,
      ⟨decode_encode (i := .latchSet) rfl, exec_latchOperation s true false⟩,
      ⟨decode_encode (i := .latchBoth) rfl, exec_latchOperation s true true⟩⟩⟩

/-- Settles O2: the two operations' port vectors and ticks, and the BIT tick as the flip-flop's caller. -/
theorem gffOperations : Obligations.GffOperations :=
  ⟨fun s d => ⟨⟨decode_encode (i := .gffHold (Port.ofBit d)) rfl, exec_gffHold_ofBit s d⟩,
      ⟨decode_encode (i := .gffCommit (Port.ofBit d)) rfl, exec_gffCommit_ofBit s d⟩⟩,
    gatedFlipFlop_enabled, bitTick_cell⟩

/-- Settles O3: enabled, disabled, and both as the latch on the gated inputs. -/
theorem gffAsGatedLatch : Obligations.GffAsGatedLatch :=
  fun d e p => ⟨gatedFlipFlop_enabled d p, gatedFlipFlop_hold d p, gatedFlipFlop_eq_latch_gated d e p⟩

end Machine
end Sys2Proof
end

section
/-! SUPPORT. Proofs of the statements of 41_registers.md: the one-bit register's two operations (R75, R76)
and its hold by feedback against a gated clock (R77), and the 16-bit register's independent lanes (R79) and
two operations (R80, R81). -/
namespace Sys2Proof

namespace Machine

/-! The one-bit register. -/

/-- BIT.HOLD on an input Bit is a BIT tick with load 0 (R75). -/
theorem exec_bitHold_ofBit (s : State) (i : Bit) :
    exec (.bitHold (Port.ofBit i)) s = .next (s.putBit (bitTick s.bit i false)) :=
  tickBit_ofBit s i false

/-- BIT.LOAD on an input Bit is a BIT tick with load 1 (R76). -/
theorem exec_bitLoad_ofBit (s : State) (i : Bit) :
    exec (.bitLoad (Port.ofBit i)) s = .next (s.putBit (bitTick s.bit i true)) :=
  tickBit_ofBit s i true

/-- With load 1 the one-bit register's cell is what a gated clock would store (R77). -/
theorem bitTick_load_cell (r : BitReg) (i : Bit) :
    (bitTick r i true).1.cell = gatedFlipFlop i true r.cell := by
  rw [bitTick_cell, mux2_true]

/-- A BIT tick and the gated clock agree on q (R77). -/
theorem bitTick_q_eq_gatedFlipFlop (r : BitReg) (i l : Bit) :
    (bitTick r i l).1.cell.q = (gatedFlipFlop i l r.cell).q := by
  cases l with
  | false => rw [bitTick_eq, gatedFlipFlop_hold, mux2_false]
  | true => rw [bitTick_load_cell]

/-- On a complementary cell a BIT tick and the gated clock store the same state: with load 0 both leave
the cell as it is (R29, R77). -/
theorem bitTick_cell_eq_gatedFlipFlop {r : BitReg} (h : Complementary r.cell) (i l : Bit) :
    (bitTick r i l).1.cell = gatedFlipFlop i l r.cell := by
  cases l with
  | false => rw [bitTick_hold_of_complementary h, gatedFlipFlop_hold]
  | true => exact bitTick_load_cell r i

/-! The 16-bit register. -/

/-- Everything a REG16 tick does: lane j stores the selected value and its complement, and the value
returned is bit by bit the selected one (R78). -/
theorem reg16Tick_eq (r : Reg16) (v : Word) (l : Bit) :
    reg16Tick r v l =
      (⟨Vector.ofFn fun j =>
          ⟨⟨mux2 r.bit[j].cell.q (v.getMsbD j.val) l, !mux2 r.bit[j].cell.q (v.getMsbD j.val) l⟩⟩⟩,
        BitVec.ofFnBE fun j => mux2 r.bit[j].cell.q (v.getMsbD j.val) l) := by
  simp only [reg16Tick, bitTick_eq]

/-- A HOLD rewrites every lane as (q, NOT q) and returns the value held (R80). -/
theorem reg16Tick_hold (r : Reg16) (v : Word) :
    reg16Tick r v false =
      (⟨Vector.ofFn fun j => ⟨⟨r.bit[j].cell.q, !r.bit[j].cell.q⟩⟩⟩, r.value) := by
  simp only [reg16Tick_eq, mux2_false, Reg16.value]

/-- A LOAD stores bit j of the input and its complement in lane j and returns the input (R81). -/
theorem reg16Tick_load (r : Reg16) (v : Word) :
    reg16Tick r v true =
      (⟨Vector.ofFn fun j => ⟨⟨v.getMsbD j.val, !v.getMsbD j.val⟩⟩⟩, v) := by
  simp only [reg16Tick_eq, mux2_true, ofFnBE_getMsbD]

/-- Bit j of a REG16 tick's output is the output of lane j's BIT tick (R78). -/
theorem reg16Tick_getMsbD (r : Reg16) (v : Word) (l : Bit) (j : Nat) (h : j < 16) :
    (reg16Tick r v l).2.getMsbD j = (bitTick r.bit[j] (v.getMsbD j) l).2 := by
  simp [reg16Tick, BitVec.getMsbD_ofFnBE, h]

/-- REG16.HOLD on a word is a REG16 tick with load 0 (R80). -/
theorem exec_reg16Hold_ofBitVec (s : State) (v : Word) :
    exec (.reg16Hold (Bus.ofBitVec v)) s = .next (s.putReg16 (reg16Tick s.reg16 v false)) :=
  tickReg16_ofBitVec s v false

/-- REG16.LOAD on a word is a REG16 tick with load 1 (R81). -/
theorem exec_reg16Load_ofBitVec (s : State) (v : Word) :
    exec (.reg16Load (Bus.ofBitVec v)) s = .next (s.putReg16 (reg16Tick s.reg16 v true)) :=
  tickReg16_ofBitVec s v true

/-- Settles O6: the two operations' port vectors and ticks; a wrong width is the 16-bit register's case of
`wrongWidthsAreFatal`. -/
theorem reg16Operations : Obligations.Reg16Operations := by
  refine ⟨fun s v => ⟨⟨?_, ?_⟩, ?_, ?_⟩, wrongWidthsAreFatal.1⟩
  · exact decode_encode (i := .reg16Hold (Bus.ofBitVec v)) (by simp [Instr.widthsOk])
  · rw [exec_reg16Hold_ofBitVec, reg16Tick_hold]
    rfl
  · exact decode_encode (i := .reg16Load (Bus.ofBitVec v)) (by simp [Instr.widthsOk])
  · rw [exec_reg16Load_ofBitVec, reg16Tick_load]
    rfl

/-- Settles O7: lane j of a tick and bit j of its output are the BIT tick of lane j with bit j of the
input and the one load. -/
theorem reg16LanesIndependent : Obligations.Reg16LanesIndependent := by
  intro r r' v v' l j h hlane hbit
  refine ⟨?_, ?_, reg16Tick_bit r v l j h⟩
  · rw [reg16Tick_bit, reg16Tick_bit, hlane, hbit]
  · rw [reg16Tick_getMsbD r v l j h, reg16Tick_getMsbD r' v' l j h, hlane, hbit]

/-- Settles O4: the two operations' port vectors and ticks. -/
theorem bitOperations : Obligations.BitOperations := by
  refine fun s i => ⟨⟨decode_encode (i := .bitHold (Port.ofBit i)) rfl, ?_⟩,
    decode_encode (i := .bitLoad (Port.ofBit i)) rfl, ?_⟩
  · rw [exec_bitHold_ofBit, bitTick_eq, mux2_false]
    rfl
  · rw [exec_bitLoad_ofBit, bitTick_eq, mux2_true]
    rfl

/-- Settles O5: the output is the new q, on which both structures agree, and on a complementary cell they
agree on the whole state. -/
theorem holdByFeedback : Obligations.HoldByFeedback := by
  intro r i l
  have hq := bitTick_q_eq_gatedFlipFlop r i l
  refine ⟨?_, hq, hq, fun hne hc => hne ?_⟩
  · rw [bitTick_eq, gatedFlipFlop_commit]
  · rw [bitTick_cell_eq_gatedFlipFlop hc]

end Machine
end Sys2Proof
end

section
/-! SUPPORT. Proofs of the statements of 42_memory_banks.md: the enable lines of a bank (R83) and the ticks of
its children (R84), the READ and WRITE of the six banks (R89 to R99), and that no decoded index is ever
missing (R87). -/
namespace Sys2Proof

/-- A bank's data bus, address bus and load laid end to end select its READ or WRITE (R52, R56). -/
theorem decode_bankOperation (b : BankName) (v : Word) (a : BitVec b.addressWidth) (l : Bit) :
    decode (.bank b) (Bus.ofBitVec v ++ Bus.ofBitVec a ++ [Port.ofBit l]) =
      .ok (bankOperation b (Bus.ofBitVec v) (Bus.ofBitVec a) l) := by
  have widths : (bankOperation b (Bus.ofBitVec v) (Bus.ofBitVec a) l).widthsOk = true := by
    rw [(Call.means_bank b _ _ l).widthsOk_eq]
    simp [Call.widthsOk, BankName.widthsOk]
  rw [← decode_encode widths, (Call.means_bank b _ _ l).unit_eq, (Call.means_bank b _ _ l).encode_eq]
  simp [Call.unit, Call.vector, Call.ports]

namespace Machine

/-! The children of a bank (R83, R84). -/

/-- An enable line that is 1 is the one at the selector's value (R83). -/
theorem eq_of_demux8_true {x : Bit} {t : BitVec 3} {i : Nat} {h : i < 8}
    (line : (demux8 x t)[i] = true) : i = t.toNat := by
  rw [demux8_getElem, Bool.and_eq_true, beq_iff_eq] at line
  exact line.2

/-- Every child of `s'` is the child of `s` ticked with the same input and rest, with the load if it is the
addressed one and with 0 if not (R84). -/
def ChildrenTicked (k : Nat) (s s' : Bank (k + 1)) (v : Word) (a : BitVec (3 * (k + 1)))
    (load : Bit) : Prop :=
  ∀ i : Fin 8, s'[i] = (bankTick k s[i] v (rest k a) (load && i.val == (top3 k a).toNat)).1

theorem bankTick_childrenTicked (k : Nat) (s : Bank (k + 1)) (v : Word) (a : BitVec (3 * (k + 1)))
    (l : Bit) : ChildrenTicked k s (bankTick (k + 1) s v a l).1 v a l :=
  fun i => bankTick_child k s v a l i i.isLt

/-- RAM8's address is its selecting field alone, and its children are registers (R82). -/
theorem bankTick_one_child (s : Bank 1) (v : Word) (a : BitVec 3) (l : Bit) (i : Fin 8) :
    (bankTick 1 s v a l).1[i] = (reg16Tick s[i] v (l && i.val == a.toNat)).1 := by
  have h := bankTick_childrenTicked 0 s v a l i
  rwa [top3_toNat, Nat.pow_zero, Nat.div_one] at h

/-- Child i after a RAM16K tick, as `bankTick_child` says it of the other banks (R84, R88). -/
theorem ram16kTick_child (s : Ram16k) (v : Word) (a : BitVec 14) (l : Bit) (i : Fin 4) :
    (ram16kTick s v a l).1.child[i] =
      (bankTick 4 s.child[i] v (rest12 a) (l && i.val == (top2 a).toNat)).1 := by
  simp [ram16kTick]

/-- With load 0 a bank's tick leaves every word, at every level (R84). -/
theorem bankTick_hold_contents (k : Nat) (s : Bank k) (v : Word) (a : BitVec (3 * k)) (x : Nat) :
    Bank.contents k (bankTick k s v a false).1 x = Bank.contents k s x := by
  simp [bankTick_contents]

/-- With load 0 a bank of complementary cells stays the bank it is (R29, R84). -/
theorem bankTick_hold_of_complementary (k : Nat) {s : Bank k} (h : Bank.Complementary k s) (v : Word)
    (a : BitVec (3 * k)) : (bankTick k s v a false).1 = s :=
  Bank.eq_of_contents_eq k (bankTick_complementary k s v a false) h
    fun x _ => bankTick_hold_contents k s v a x

/-! The two operations of a bank (R89 to R99). -/

/-- READ and WRITE of a bank the machine has: their port vectors, and the next state of each with its
contents. What is the bank's own is given: `children load t`, how its children in `t` were ticked, and
`frame t o`, the old state with the bank taken from `t` and the value `o` returned. -/
theorem bankOperations_meaning {s : State} {b : BankName} (hb : s.hasBank b) (v : Word)
    (a : BitVec b.addressWidth) (children : Bit → State → Prop)
    (frame : State → Option Output → State)
    (tick : ∀ l t, tickBank b v a l s = .next t → children l t ∧ t = frame t t.output) :
    decode (.bank b) (Bus.ofBitVec v ++ Bus.ofBitVec a ++ [0]) =
        .ok (bankOperation b (Bus.ofBitVec v) (Bus.ofBitVec a) false) ∧
    decode (.bank b) (Bus.ofBitVec v ++ Bus.ofBitVec a ++ [1]) =
        .ok (bankOperation b (Bus.ofBitVec v) (Bus.ofBitVec a) true) ∧
    (∃ t w, exec (bankOperation b (Bus.ofBitVec v) (Bus.ofBitVec a) false) s = .next t ∧
      children false t ∧ s.memRead b a.toNat = some w ∧ t = frame t (some (.word w)) ∧
      ∀ x, t.memRead b x = s.memRead b x) ∧
    ∃ t, exec (bankOperation b (Bus.ofBitVec v) (Bus.ofBitVec a) true) s = .next t ∧
      children true t ∧ t = frame t (some (.word v)) ∧
      ∀ x, t.memRead b x = if x = a.toNat then some v else s.memRead b x := by
  refine ⟨decode_bankOperation b v a false, decode_bankOperation b v a true, ?_, ?_⟩
  · obtain ⟨t, w, read, out, word, words⟩ := exec_bankRead hb v a
    obtain ⟨ticked, framed⟩ := tick false t (exec_bankOperation_ofBitVec s b v a false ▸ read)
    exact ⟨t, w, read, ticked, word, out ▸ framed, words⟩
  · obtain ⟨t, write, out, words⟩ := exec_bankWrite hb v a
    obtain ⟨ticked, framed⟩ := tick true t (exec_bankOperation_ofBitVec s b v a true ▸ write)
    exact ⟨t, write, ticked, out ▸ framed, words⟩

/-- READ and WRITE of a bank whose data or address bus has a wrong width are Fatals (R58). -/
theorem bankOperations_busWidth (s : State) (b : BankName) {i a : Bus} (hi : i.allBits = true)
    (ha : a.allBits = true) (hw : i.length ≠ 16 ∨ a.length ≠ b.addressWidth) :
    (∃ p n, exec (bankOperation b i a false) s = .fault (.busWidth (.bank b) p n)) ∧
      ∃ p n, exec (bankOperation b i a true) s = .fault (.busWidth (.bank b) p n) := by
  have bits : [i, a].all Bus.allBits = true := by simp [hi, ha]
  have widths : b.widthsOk i a = false := by
    rwa [← Bool.not_eq_true, BankName.widthsOk_iff, not_and_or]
  simp only [exec_bankOperation]
  exact ⟨(tickBankPorts_checked s b i a false).busWidth bits widths,
    (tickBankPorts_checked s b i a true).busWidth bits widths⟩

/-! The Fatals of a tick (R87, R107). -/

/-- A bank's tick behind the port check answers a next state or is refused. -/
theorem tickBank_ne_fault (s : State) (b : BankName) (v : Word) (a : BitVec b.addressWidth) (l : Bit)
    (f : Fault) : tickBank b v a l s ≠ .fault f := by
  by_cases hb : s.hasBank b
  · obtain ⟨t, run⟩ := tickBank_built hb v a l
    rw [run]
    nofun
  · rw [tickBank_not_built s hb]
    nofun

/-- Where the tick behind the port check raises nothing, the check's BUS_WIDTH is the only Fatal. -/
theorem withPorts_fault {u : UnitName} {cs : List PortCheck} {tick : Result} {f : Fault}
    (h : withPorts u cs tick = .fault f) (ht : tick ≠ .fault f) : ∃ p n, f = .busWidth u p n := by
  rcases withPorts_cases u cs tick with ⟨p, x, -, -, run⟩ | ⟨p, n, -, -, run⟩ | ⟨-, -, run⟩
  · cases run.symm.trans h
  · cases run.symm.trans h
    exact ⟨p, n, rfl⟩
  · exact absurd (run.symm.trans h) ht

/-- The only Fatal an operation ends in is BUS_WIDTH, for its own unit (R107). -/
theorem exec_fault {i : Instr} {s : State} {f : Fault} (h : exec i s = .fault f) :
    ∃ p n, f = .busWidth i.unit p n :=
  match i with
  | .latchHold | .latchReset | .latchSet | .latchBoth => nomatch h
  | .gffHold _ | .gffCommit _ | .bitHold _ | .bitLoad _ | .reg16Hold _ | .reg16Load _
  | .mux2 _ _ _ | .demux8 _ _ | .mux8x16 _ _ | .demux4 _ _ | .mux4x16 _ _ =>
    withPorts_fault h nofun
  | .ram8Read _ _ | .ram8Write _ _ | .ram64Read _ _ | .ram64Write _ _
  | .ram512Read _ _ | .ram512Write _ _ | .ram4kRead _ _ | .ram4kWrite _ _
  | .ram16kRead _ _ | .ram16kWrite _ _ | .ram32kRead _ _ | .ram32kWrite _ _ =>
    withPorts_fault h (tickBank_ne_fault s _ _ _ _ f)

/-- The only Fatal a step ends in is BUS_WIDTH: the operation's, or the decoder's for a malformed vector. -/
theorem step_fault {s : State} {f : Fault} (h : step s = .fault f) :
    ∃ u p n, f = .busWidth u p n := by
  cases hs : s.requests with
  | nil => cases (stepsTakeRequestsInOrder.2 s hs).symm.trans h
  | cons r rs =>
    rw [step_cons s hs] at h
    cases hd : decodeRequest r with
    | ok i =>
      rw [hd] at h
      exact ⟨_, exec_fault h⟩
    | error e =>
      rw [hd] at h
      cases e with
      | nonBit u p x => cases h
      | width u p n => cases h; exact ⟨u, p, n, rfl⟩

/-- Settles O8: RAM8's children are registers, each ticked with its own line. -/
theorem ram8Operations : Obligations.Ram8Operations :=
  ⟨fun s v a => bankOperations_meaning (b := .ram8) trivial v a
      (fun l t => ∀ i : Fin 8, t.ram8[i] = (reg16Tick s.ram8[i] v (l && i.val == a.toNat)).1)
      (fun t o => { s with ram8 := t.ram8, output := o })
      fun l _ run => by cases run; exact ⟨bankTick_one_child s.ram8 v a l, rfl⟩,
    fun s _ _ => bankOperations_busWidth s .ram8⟩

/-- Settles O9: the bank of level 2. -/
theorem ram64Operations : Obligations.Ram64Operations :=
  ⟨fun s v a => bankOperations_meaning (b := .ram64) trivial v a
      (fun l t => ChildrenTicked 1 s.ram64 t.ram64 v a l)
      (fun t o => { s with ram64 := t.ram64, output := o })
      fun l _ run => by cases run; exact ⟨bankTick_childrenTicked 1 s.ram64 v a l, rfl⟩,
    fun s _ _ => bankOperations_busWidth s .ram64⟩

/-- Settles O10: the bank of level 3. -/
theorem ram512Operations : Obligations.Ram512Operations :=
  ⟨fun s v a => bankOperations_meaning (b := .ram512) trivial v a
      (fun l t => ChildrenTicked 2 s.ram512 t.ram512 v a l)
      (fun t o => { s with ram512 := t.ram512, output := o })
      fun l _ run => by cases run; exact ⟨bankTick_childrenTicked 2 s.ram512 v a l, rfl⟩,
    fun s _ _ => bankOperations_busWidth s .ram512⟩

/-- Settles O11: the bank of level 4. -/
theorem ram4kOperations : Obligations.Ram4kOperations :=
  ⟨fun s v a => bankOperations_meaning (b := .ram4k) trivial v a
      (fun l t => ChildrenTicked 3 s.ram4k t.ram4k v a l)
      (fun t o => { s with ram4k := t.ram4k, output := o })
      fun l _ run => by cases run; exact ⟨bankTick_childrenTicked 3 s.ram4k v a l, rfl⟩,
    fun s _ _ => bankOperations_busWidth s .ram4k⟩

/-- Settles O12: the top unit as RAM16K, with its four children. -/
theorem ram16kOperations : Obligations.Ram16kOperations := by
  refine ⟨fun s v a r hr => ?_, fun s _ _ _ => bankOperations_busWidth s .ram16k⟩
  refine bankOperations_meaning (b := .ram16k) ((hasBank_ram16k s).2 ⟨r, hr⟩) v a
    (fun l t => ∃ r', t.top = .ram16k r' ∧ ∀ i : Fin 4,
      r'.child[i] = (bankTick 4 r.child[i] v (rest12 a) (l && i.val == (top2 a).toNat)).1)
    (fun t o => { s with top := t.top, output := o }) fun l t run => ?_
  cases (tickBank_ram16k s hr v a l).symm.trans run
  exact ⟨⟨_, rfl, ram16kTick_child r v a l⟩, rfl⟩

/-- Settles O13: the top unit as RAM32K, the bank of level 5. -/
theorem ram32kOperations : Obligations.Ram32kOperations := by
  refine ⟨fun s v a r hr => ?_, fun s _ _ _ => bankOperations_busWidth s .ram32k⟩
  refine bankOperations_meaning (b := .ram32k) ((hasBank_ram32k s).2 ⟨r, hr⟩) v a
    (fun l t => ∃ r', t.top = .ram32k r' ∧ ChildrenTicked 4 r r' v a l)
    (fun t o => { s with top := t.top, output := o }) fun l t run => ?_
  cases (tickBank_ram32k s hr v a l).symm.trans run
  exact ⟨⟨_, rfl, bankTick_childrenTicked 4 r v a l⟩, rfl⟩

/-- Settles O27: a line is 1 only where the load is 1 and the selector names it. -/
theorem decodeEnableLines : Obligations.DecodeEnableLines := by
  refine fun load t => ⟨fun i h => ?_, fun i h => ?_, fun i j hi hj li lj => ?_⟩
  · rw [demux8_getElem, Bool.true_and, beq_eq_decide]
  · rw [demux8_getElem, Bool.false_and]
  · exact (eq_of_demux8_true li).trans (eq_of_demux8_true lj).symm

/-- Settles O28: each child is ticked with its own line, and a tick with line 0 is a hold. -/
theorem everyChildTicks : Obligations.EveryChildTicks := by
  intro k s v a load i h
  have ticked : (bankTick (k + 1) s v a load).1[i] =
      (bankTick k s[i] v (rest k a) (demux8 load (top3 k a))[i]).1 := by
    rw [bankTick_child, demux8_getElem]
  refine ⟨ticked, fun off => ?_⟩
  rw [ticked, off]
  exact ⟨bankTick_hold_contents k s[i] v (rest k a),
    fun hc => bankTick_hold_of_complementary k hc v (rest k a)⟩

/-- Settles O40: the only Fatal of an operation or a step is BUS_WIDTH. -/
theorem noDecodeIndexFatal : Obligations.NoDecodeIndexFatal := by
  refine fun s u n => ⟨fun i h => ?_, fun h => ?_⟩
  · obtain ⟨p, m, e⟩ := exec_fault h
    cases e
  · obtain ⟨v, p, m, e⟩ := step_fault h
    cases e

end Machine
end Sys2Proof
end

section
/-! SUPPORT. Proofs of the statements of 43_combinational_contracts.md: the encodings and returned values of
MUX2 (R101), the demultiplexers (R102, R104) and the word multiplexers (R103, R105). -/
namespace Sys2Proof

/-- Words as options and a vector as selector have a word multiplexer's widths (R103, R105). -/
@[simp] theorem muxWidthsOk_ofWords {n w : Nat} (o : Vector Word n) (t : BitVec w) :
    muxWidthsOk n w (Bus.ofWords o) (Bus.ofBitVec t) = true := by
  refine muxWidthsOk_iff.2 ⟨Machine.length_ofWords o, fun b hb => ?_, Bus.length_ofBitVec t⟩
  obtain ⟨v, -, rfl⟩ := List.mem_map.1 hb
  exact Bus.length_ofBitVec v

namespace Machine

/-! A contract on Bits passes the port check and returns its value (R100). -/

/-- MUX2 on Bits returns the selected one (R101). -/
theorem exec_mux2_ofBit (s : State) (a b c : Bit) :
    exec (.mux2 (Port.ofBit a) (Port.ofBit b) (Port.ofBit c)) s =
      .next (s.putOutput (.bit (mux2 a b c))) := by
  simp only [exec, execMux2, withPorts_mux2Ports, portBit_ofBit]

/-- DEMUX8 on Bits returns the eight lines (R102). -/
theorem exec_demux8_ofBitVec (s : State) (x : Bit) (t : BitVec 3) :
    exec (.demux8 (Port.ofBit x) (Bus.ofBitVec t)) s = .next (s.putOutput (.lines8 (demux8 x t))) := by
  simp only [exec, execDemux8, withPorts_demuxPorts, portBit_ofBit, busValue_ofBitVec]

/-- DEMUX4 on Bits returns the four lines (R104). -/
theorem exec_demux4_ofBitVec (s : State) (x : Bit) (t : BitVec 2) :
    exec (.demux4 (Port.ofBit x) (Bus.ofBitVec t)) s = .next (s.putOutput (.lines4 (demux4 x t))) := by
  simp only [exec, execDemux4, withPorts_demuxPorts, portBit_ofBit, busValue_ofBitVec]

/-- MUX8X16 on words returns the selected one (R103). -/
theorem exec_mux8x16_ofWords (s : State) (o : Vector Word 8) (t : BitVec 3) :
    exec (.mux8x16 (Bus.ofWords o) (Bus.ofBitVec t)) s = .next (s.putOutput (.word (mux8x16 o t))) := by
  simp only [exec, execMux8x16, withPorts_muxPorts, optionWords_ofWords, busValue_ofBitVec]

/-- MUX4X16 on words returns the selected one (R105). -/
theorem exec_mux4x16_ofWords (s : State) (o : Vector Word 4) (t : BitVec 2) :
    exec (.mux4x16 (Bus.ofWords o) (Bus.ofBitVec t)) s = .next (s.putOutput (.word (mux4x16 o t))) := by
  simp only [exec, execMux4x16, withPorts_muxPorts, optionWords_ofWords, busValue_ofBitVec]

/-- Settles O17: the two multiplexers' port vectors are their encodings, and each returns the option at the
selector's value. -/
theorem wordMuxOperations : Obligations.WordMuxOperations :=
  fun s =>
    ⟨fun o t => ⟨decode_encode (i := .mux8x16 (Bus.ofWords o) (Bus.ofBitVec t)) (muxWidthsOk_ofWords o t),
        exec_mux8x16_ofWords s o t⟩,
      fun o t => ⟨decode_encode (i := .mux4x16 (Bus.ofWords o) (Bus.ofBitVec t)) (muxWidthsOk_ofWords o t),
        exec_mux4x16_ofWords s o t⟩⟩

/-- Settles O15: MUX2's port vector and returned value, and its use in the BIT tick, which is the first
clause of `holdByFeedback`. -/
theorem mux2Operation : Obligations.Mux2Operation :=
  fun s a b c =>
    ⟨decode_encode (i := .mux2 (Port.ofBit a) (Port.ofBit b) (Port.ofBit c)) rfl, exec_mux2_ofBit s a b c,
      fun i l => (holdByFeedback s.bit i l).1⟩

/-- Settles O16: the two demultiplexers' port vectors are their encodings, and each returns its lines. -/
theorem demuxOperations : Obligations.DemuxOperations := by
  refine fun s x => ⟨fun t => ⟨?_, exec_demux8_ofBitVec s x t⟩, fun t => ⟨?_, exec_demux4_ofBitVec s x t⟩⟩
  · exact decode_encode (i := .demux8 (Port.ofBit x) (Bus.ofBitVec t)) (by simp [Instr.widthsOk])
  · exact decode_encode (i := .demux4 (Port.ofBit x) (Bus.ofBitVec t)) (by simp [Instr.widthsOk])

end Machine
end Sys2Proof
end

section
/-! SUPPORT. Proofs of the statements of 60_exceptions.md: the invalid state and the operation that makes it
(R106). -/
namespace Sys2Proof

/-- The operations that drive the latch are the four that its two control bits select (R56). -/
theorem Instr.eq_latchOperation_of_unit {i : Instr} (h : i.unit = .latch) :
    ∃ set reset, i = latchOperation set reset := by
  cases i with
  | latchHold => exact ⟨false, false, rfl⟩
  | latchReset => exact ⟨false, true, rfl⟩
  | latchSet => exact ⟨true, false, rfl⟩
  | latchBoth => exact ⟨true, true, rfl⟩
  | _ => cases h

namespace Machine

/-- Only both control bits together bring the latch to (0, 0) from another state: set and reset each leave
one output 1, and a hold keeps what was there (R65, R106). -/
theorem latch_makes_invalid {set reset : Bit} {p : LatchState}
    (h : latch set reset p = ⟨false, false⟩) (hp : p ≠ ⟨false, false⟩) :
    set = true ∧ reset = true := by
  match set, reset with
  | false, false => exact absurd h hp
  | false, true => cases h
  | true, false => cases h
  | true, true => exact ⟨rfl, rfl⟩

/-- The flip-flop keeps a complementary LatchState complementary: a hold returns it, and a commit stores
the data and its complement (R71, R72). -/
theorem gatedFlipFlop_complementary (d e : Bit) {p : LatchState} (h : Complementary p) :
    Complementary (gatedFlipFlop d e p) := by
  cases e with
  | false => exact h
  | true => rw [gatedFlipFlop_commit]; rfl

/-- No tick of any unit breaks the complement of the LatchState kept for GFF. -/
theorem UnitTick.gff_complementary {s t : State} {u : UnitName} (h : UnitTick s u t)
    (hs : Complementary s.gff) : Complementary t.gff := by
  cases h with
  | gff d e => exact gatedFlipFlop_complementary d e hs
  | _ => exact hs

/-- An operation that brings the latch to (0, 0) drives the latch with both control bits (R69, R106). -/
theorem exec_makes_latch_invalid {i : Instr} {s t : State} (h : exec i s = .next t)
    (ht : t.latch = ⟨false, false⟩) (hs : s.latch ≠ ⟨false, false⟩) : i = .latchBoth := by
  have hu : i.unit = .latch := by
    by_contra hu
    have apart : ¬ SharesStorage .latch i.unit := Ne.symm hu
    have same : s.latch = t.latch := (exec_unitTick h).sameUnit apart
    exact hs (same.trans ht)
  obtain ⟨set, reset, rfl⟩ := Instr.eq_latchOperation_of_unit hu
  cases (exec_latchOperation s set reset).symm.trans h
  obtain ⟨rfl, rfl⟩ := latch_makes_invalid ht hs
  rfl

/-- Settles O41: the latch's clause from the truth table, the flip-flop's from the ticks of all units. -/
theorem invalidStateOnlyFromLatchBoth : Obligations.InvalidStateOnlyFromLatchBoth :=
  fun _ _ _ h => ⟨exec_makes_latch_invalid h, (exec_unitTick h).gff_complementary⟩

end Machine
end Sys2Proof
end

section
/-! SUPPORT. Proofs of the statements of 70_reset_and_hazards.md: a machine keeps its units (R122), a load is
seen in its own tick and by the next one (R127), and the caller's duty to pass the contract's widths (R125). -/
namespace Sys2Proof

namespace Machine

/-- Which units a machine has is a matter of its top unit's kind (R7, R52). -/
theorem State.hasUnit_of_kind_eq {s t : State} (h : t.top.kind = s.top.kind) {u : UnitName}
    (hu : s.hasUnit u) : t.hasUnit u := by
  cases u with
  | bank b => exact State.hasBank_of_kind_eq h hu
  | _ => trivial

/-- A step changes the kind of the top unit neither by delivering a LatchState nor by its tick. -/
theorem step_kind_eq {s t : State} (h : step s = .next t) : t.top.kind = s.top.kind := by
  obtain ⟨-, rfl⟩ | ⟨r, rs, i, -, -, run⟩ := step_next_cases h
  · rfl
  · rw [(exec_unitTick run).kind_eq, State.deliver_top]

/-- A BIT tick returns the q of its new state (R74). -/
theorem bitTick_out_eq_q (r : BitReg) (i l : Bit) : (bitTick r i l).2 = (bitTick r i l).1.cell.q := rfl

/-- A BIT tick with load 1 stores its input, whatever was held (R76). -/
theorem bitTick_load_q (r : BitReg) (i : Bit) : (bitTick r i true).1.cell.q = i := by
  rw [bitTick_eq, mux2_true]

/-- A BIT tick with load 0 returns the q held, whatever its input (R75). -/
theorem bitTick_hold_out (r : BitReg) (i : Bit) : (bitTick r i false).2 = r.cell.q := by
  rw [bitTick_eq, mux2_false]

/-- The port check of a demultiplexer finds its selector's width (R58, R125). -/
theorem withPorts_demuxPorts_of_width {u : UnitName} {w : Nat} (x : Bit) {t : Bus} (r : Result)
    (hb : t.allBits = true) (hw : t.length ≠ w) :
    withPorts u [bitPort .input (Port.ofBit x), busPort .selector w t] r =
      .fault (.busWidth u .selector t.length) :=
  withPorts_of_width (firstNonBit_eq_none.2 (by simp [busPort, hb]))
    (by simp [firstWidth, bitPort, busPort, hw])

/-- Options and a selector of Bits are the Bits that the port check of a word multiplexer asks for. -/
theorem allBits_options_selector {o : List Bus} {t : Bus} (ho : o.all Bus.allBits = true)
    (ht : t.allBits = true) : (o ++ [t]).all Bus.allBits = true := by
  rw [List.all_append, ho, List.all_cons, ht]
  rfl

/-- Settles O47: the top unit's kind is kept, and it decides which units there are. -/
theorem stepKeepsShape : Obligations.StepKeepsShape :=
  fun _ _ h => ⟨step_kind_eq h, fun _ => State.hasUnit_of_kind_eq (step_kind_eq h)⟩

/-- Settles O36: each load returns its input and stores it where the tick after it finds it. -/
theorem loadsWriteThrough : Obligations.LoadsWriteThrough := by
  refine ⟨fun s i x => ?_, fun s v x => ?_, fun s b v x a hb => ?_⟩
  · have stored := bitTick_load_q s.bit i
    refine ⟨_, _, exec_bitLoad_ofBit s i, ?_, stored, exec_bitHold_ofBit _ x, ?_⟩
    · rw [State.putBit_output, bitTick_out_eq_q, stored]
    · rw [State.putBit_output, bitTick_hold_out, State.putBit_bit, stored]
  · have stored : (reg16Tick s.reg16 v true).1.value = v := by
      rw [reg16Tick_value, reg16Tick_load_out]
    refine ⟨_, _, exec_reg16Load_ofBitVec s v, ?_, stored, exec_reg16Hold_ofBitVec _ x, ?_⟩
    · rw [State.putReg16_output, reg16Tick_load_out]
    · rw [State.putReg16_output, reg16Tick_hold_out, State.putReg16_reg16, stored]
  · obtain ⟨t, write, out, words⟩ := exec_bankWrite hb v a
    have stored : t.memRead b a.toNat = some v := (words _).trans (if_pos rfl)
    obtain ⟨t', read, out'⟩ := exec_bankRead_of_memRead (exec_hasBank write hb) x stored
    exact ⟨t, t', write, out, read, out'⟩

/-- Settles O19: a demultiplexer has one bus, its selector; a word multiplexer's widths are all in its port
check. -/
theorem contractWidthsAreFatal : Obligations.ContractWidthsAreFatal :=
  ⟨fun _ x _ => withPorts_demuxPorts_of_width x _,
    fun _ x _ => withPorts_demuxPorts_of_width x _,
    fun s o t ho ht => (exec_checked s (.mux8x16 o t)).busWidth (allBits_options_selector ho ht),
    fun s o t ho ht => (exec_checked s (.mux4x16 o t)).busWidth (allBits_options_selector ho ht)⟩

end Machine
end Sys2Proof
end

section
/-! SUPPORT. Proof of the order of stops (log entries 7, 8 and 16): values before widths, and both before a
bank that is not built. -/
namespace Sys2Proof

namespace Machine

/-- An operation on Bits of which some width is wrong is a Fatal for its unit, whatever the machine has
(R58, R107). -/
theorem exec_of_width {i : Instr} (s : State) (hb : i.bitsOnly = true) (hw : i.widthsOk = false) :
    ∃ p n, exec i s = .fault (.busWidth i.unit p n) :=
  (exec_checked s i).busWidth hb hw

/-- A call on Bits selects the operation it means, on the same values and with the same widths (R51, R56). -/
theorem exists_decodeCall_of_allBits {c : Call} (h : c.ports.all Bus.allBits = true) :
    ∃ i, decodeCall c = .ok i ∧ i.unit = c.unit ∧ i.bitsOnly = true ∧ i.widthsOk = c.widthsOk := by
  have hv : Bus.allBits c.vector = true := by rwa [Call.vector, Bus.allBits_flatten]
  obtain ⟨i, hi, means⟩ := decodeCall_of_bits (Call.controls_of_bits hv)
  exact ⟨i, hi, means.unit_eq, by rw [← allBits_encode, means.encode_eq, hv], means.widthsOk_eq⟩

/-- A step on a request of Bits of which some width is wrong is a Fatal for its unit: a call's comes from the
port check of its operation, a vector's from the decoder (R58, R125). -/
theorem step_of_width {s : State} {r : Request} {rs : List Request} (hs : s.requests = r :: rs)
    (hb : r.bitsOnly = true) (hw : r.widthsOk = false) :
    ∃ p n, step s = .fault (.busWidth r.unit p n) := by
  cases r with
  | call c =>
    obtain ⟨i, decoded, unit, bits, widths⟩ := exists_decodeCall_of_allBits hb
    rw [stepRunsDecoded.1 s _ rs i hs decoded, Request.unit, ← unit]
    exact exec_of_width _ bits (widths.trans hw)
  | vector u ports =>
    exact ⟨.vector, ports.length, stepStopsOnMalformedVector s u ports rs hs hb (beq_eq_false_iff_ne.1 hw)⟩

/-- A bank operation on Bits records the first port of a wrong width, before it is asked whether the machine
has the bank (R107, R109, log entry 16). -/
theorem exec_bankOperation_of_width (s : State) (b : BankName) {i a : Bus} (l : Bit) {p : PortName} {n : Nat}
    (hi : i.allBits = true) (ha : a.allBits = true) (hw : firstWidth (bankPorts b i a) = some (p, n)) :
    exec (bankOperation b i a l) s = .fault (.busWidth (.bank b) p n) := by
  rw [exec_bankOperation]
  exact withPorts_of_width (firstNonBit_eq_none.2 (by simp [bankPorts, busPort, hi, ha])) hw

/-- Settles O51: the port check stands in front of every tick and asks for Bits before widths; the decoder
asks in the same order. -/
theorem orderOfStops : Obligations.OrderOfStops := by
  refine ⟨fun i s => exec_of_nonBit s, fun s r rs => step_of_nonBit s, fun i s => exec_of_width s,
    fun s r rs => step_of_width, fun s b i a l hi ha => ⟨fun hw _ => ?_, fun hw hw' => ?_⟩⟩
  · exact exec_bankOperation_of_width s b l hi ha (by simp [firstWidth, bankPorts, busPort, hw])
  · exact exec_bankOperation_of_width s b l hi ha (by simp [firstWidth, bankPorts, busPort, hw, hw'])

end Machine
end Sys2Proof
end
